-- ==== Sys2Proof/Word.lean ====
section
/-! DEFINITION. The pent (R12), pent strings (R16) and the 24-pent instruction word (R80): the types
and the two readings of one pent, its digit value and its code (R81). -/

namespace Sys2Proof

/-- R12: one balanced base-5 digit, value -2, -1, 0, +1 or +2. -/
inductive Pent where
  | neg2
  | neg1
  | zero
  | pos1
  | pos2
  deriving DecidableEq, Repr, Inhabited

/-- R12: the digit value of a pent. -/
def Pent.val : Pent → Int
  | .neg2 => -2
  | .neg1 => -1
  | .zero => 0
  | .pos1 => 1
  | .pos2 => 2

/-- R81: the code of a pent, its digit value modulo 5. -/
def Pent.code : Pent → Nat
  | .zero => 0
  | .pos1 => 1
  | .pos2 => 2
  | .neg2 => 3
  | .neg1 => 4

/-- R81 read backwards: the pent whose code is `c` modulo 5. -/
def Pent.ofCode (c : Nat) : Pent :=
  match c % 5 with
  | 0 => .zero
  | 1 => .pos1
  | 2 => .pos2
  | 3 => .neg2
  | _ => .neg1

/-- R16: a string of `n` pents, pent 0 the least significant. -/
abbrev Pat (n : Nat) := Vector Pent n

/-- R80: an instruction word of ILEN = 24 pents. -/
abbrev InstrWord := Pat 24

end Sys2Proof
end

