-- ==== Sys2Proof/Config.lean ====
section
/-! DEFINITION. The parameters with a decided value (R10, R11) and the free values: constants without a
body, so that nothing can be proved of them beyond their type. Claims hold whatever they are. -/

namespace Sys2Proof.Config

/-- R11, R31: the maximum vector length, and the length of a mask register in bits. -/
def vlen : Nat := 18

/-- R11, R80: the length of an instruction word in pents. -/
abbrev ilen : Int := 24

/-! ## The numerics record (R150)

Total functions on raw pent strings that depend on their arguments alone. -/

/-- R150 `fadd16`: "element-wise add". -/
opaque fadd16 : Pat 16 → Pat 16 → Pat 16
/-- R150 `fadd28`. -/
opaque fadd28 : Pat 28 → Pat 28 → Pat 28
/-- R150 `fsub16`: first minus second. -/
opaque fsub16 : Pat 16 → Pat 16 → Pat 16
/-- R150 `fsub28`. -/
opaque fsub28 : Pat 28 → Pat 28 → Pat 28
/-- R150 `fmul16`. -/
opaque fmul16 : Pat 16 → Pat 16 → Pat 16
/-- R150 `fmul28`. -/
opaque fmul28 : Pat 28 → Pat 28 → Pat 28
/-- R150 `fdiv16`: first by second. -/
opaque fdiv16 : Pat 16 → Pat 16 → Pat 16
/-- R150 `fdiv28`. -/
opaque fdiv28 : Pat 28 → Pat 28 → Pat 28
/-- R150 `fmadd16`: first times second plus third. -/
opaque fmadd16 : Pat 16 → Pat 16 → Pat 16 → Pat 16
/-- R150 `fmsub16`: first times second minus third. -/
opaque fmsub16 : Pat 16 → Pat 16 → Pat 16 → Pat 16
/-- R150 `fnmadd16`: minus the product, plus third. -/
opaque fnmadd16 : Pat 16 → Pat 16 → Pat 16 → Pat 16
/-- R150 `fsqrt16`. -/
opaque fsqrt16 : Pat 16 → Pat 16
/-- R150 `frcp16`: a fast approximation of the reciprocal. -/
opaque frcp16 : Pat 16 → Pat 16
/-- R150 `frsqrt16`. -/
opaque frsqrt16 : Pat 16 → Pat 16
/-- R150 `fmin16`. -/
opaque fmin16 : Pat 16 → Pat 16 → Pat 16
/-- R150 `fmax16`. -/
opaque fmax16 : Pat 16 → Pat 16 → Pat 16
/-- R150 `fabs16`. -/
opaque fabs16 : Pat 16 → Pat 16
/-- R150 `fneg16`. -/
opaque fneg16 : Pat 16 → Pat 16
/-- R150, R181 `frelu16`. -/
opaque frelu16 : Pat 16 → Pat 16
/-- R150, R183 `fsigmoid16`. -/
opaque fsigmoid16 : Pat 16 → Pat 16
/-- R150, R184 `ftanh16`. -/
opaque ftanh16 : Pat 16 → Pat 16
/-- R150, R185 `fexp16`. -/
opaque fexp16 : Pat 16 → Pat 16
/-- R150, R186 `fredsum16`: the active elements as a list in ascending index. -/
opaque fredsum16 : List (Pat 16) → Pat 16
/-- R150, R190 `dequant5_16`: the raw element and the integer scale. -/
opaque dequant5 : Pat 16 → Int → Pat 16

/-! ## The pooling record (R192) and the crossbar (R206) -/

/-- R192 `maxpool2`: the pooled values of the active elements. -/
opaque maxpool2 : List Int → List Int
/-- R192 `avgpool2`. -/
opaque avgpool2 : List Int → List Int
/-- R206 `Crossbar`: element `k` of the answer of the crossbar named by the first argument to the input
list. An answer has as many elements as the input, so it is given element by element. -/
opaque crossbar : Int → List Int → Nat → Int

/-! ## Draws (R17, R128) -/

/-- R128: the free values of type P16. The step applies it to the counter `draws` of State, so each draw
is a fresh value nobody chose. -/
opaque draw16 : Nat → Pat 16

end Sys2Proof.Config
end

