-- ==== Sys2Proof/Syntax.lean ====
section
/-! DEFINITION. The instructions: one constructor per row of the opcode table (R101), operands already
pulled out of their fields. Register numbers are bounded by their types (R86, R97); what the types do not
bound (immediates, distinct register pairs) is checked in WellFormed.lean. -/

namespace Sys2Proof

/-- A vector register number, V0 to V31 (R86). -/
abbrev VNum := Fin 32

/-- A scalar register number, x0 to x31 (R86). -/
abbrev XNum := Fin 32

/-- A mask register number, VM0 to VM7 (R86). -/
abbrev MNum := Fin 8

/-- The base of a group of four vector registers, 0 to 28 (R26, R86, R97). -/
abbrev GNum := Fin 29

/-- R33, R34: the element types. -/
inductive EType where
  | p14
  | p16
  | p28
  | p55
  | f16
  | f28
  | f55
  deriving DecidableEq, Repr, Inhabited

/-- R101: the 94 spellings. Each docstring gives the assembly form as the table writes it and its rule. -/
inductive Instr where
  -- Vector configuration (40_config.md).
  /-- `SETVL Rd, Rs` (R110). -/
  | setvl (rd rs : XNum)
  /-- `SETVLI Rd, imm` (R111). -/
  | setvli (rd : XNum) (imm : Int)
  /-- `VSETTYPE type` (R112). -/
  | vsettype (t : EType)
  /-- `VGETCFG Rd` (R113). -/
  | vgetcfg (rd : XNum)
  -- Vector integer (41_integer.md).
  /-- `VADD.P16 Vd, Vs1, Vs2` (R121). -/
  | vaddP16 (vd vs1 vs2 : VNum)
  /-- `VADD.P28 Vd, Vs1, Vs2` (R121). -/
  | vaddP28 (vd vs1 vs2 : VNum)
  /-- `VADD.P14 Vd, Vs1, Vs2` (R121). -/
  | vaddP14 (vd vs1 vs2 : VNum)
  /-- `VSUB.P16 Vd, Vs1, Vs2` (R122). -/
  | vsubP16 (vd vs1 vs2 : VNum)
  /-- `VSUB.P28 Vd, Vs1, Vs2` (R122). -/
  | vsubP28 (vd vs1 vs2 : VNum)
  /-- `VNEG.P16 Vd, Vs` (R123). -/
  | vnegP16 (vd vs : VNum)
  /-- `VMUL.P16 Vd, Vs1, Vs2` (R124). -/
  | vmulP16 (vd vs1 vs2 : VNum)
  /-- `VWMUL.P16 Vd2:Vd1, Vs1, Vs2` (R125). -/
  | vwmulP16 (vd1 vd2 vs1 vs2 : VNum)
  /-- `VDIV.P16 Vd, Vs1, Vs2` (R129). -/
  | vdivP16 (vd vs1 vs2 : VNum)
  /-- `VMOD.P16 Vd, Vs1, Vs2` (R130). -/
  | vmodP16 (vd vs1 vs2 : VNum)
  /-- `VADD.VX.P16 Vd, Vs, Rs` (R131). -/
  | vaddVxP16 (vd vs : VNum) (rs : XNum)
  /-- `VADD.VI.P16 Vd, Vs, imm` (R132). -/
  | vaddViP16 (vd vs : VNum) (imm : Int)
  /-- `VMUL.VX.P16 Vd, Vs, Rs` (R133). -/
  | vmulVxP16 (vd vs : VNum) (rs : XNum)
  /-- `VMUL.VI.P16 Vd, Vs, imm` (R134). -/
  | vmulViP16 (vd vs : VNum) (imm : Int)
  /-- `VREDSUM.P16 Rd, Vs` (R135). -/
  | vredsumP16 (rd : XNum) (vs : VNum)
  /-- `VREDMAX.P16 Rd, Vs` (R136). -/
  | vredmaxP16 (rd : XNum) (vs : VNum)
  /-- `VREDMIN.P16 Rd, Vs` (R137). -/
  | vredminP16 (rd : XNum) (vs : VNum)
  /-- `VDOT.P16 Rd, Vs1, Vs2` (R138). -/
  | vdotP16 (rd : XNum) (vs1 vs2 : VNum)
  /-- `VMSEQ.P16 Vm, Vs1, Vs2` (R139). -/
  | vmseqP16 (md : MNum) (vs1 vs2 : VNum)
  /-- `VMSNE.P16 Vm, Vs1, Vs2` (R140). -/
  | vmsneP16 (md : MNum) (vs1 vs2 : VNum)
  /-- `VMSLT.P16 Vm, Vs1, Vs2` (R141). -/
  | vmsltP16 (md : MNum) (vs1 vs2 : VNum)
  /-- `VMSLE.P16 Vm, Vs1, Vs2` (R142). -/
  | vmsleP16 (md : MNum) (vs1 vs2 : VNum)
  /-- `VMSGT.P16 Vm, Vs1, Vs2` (R143). -/
  | vmsgtP16 (md : MNum) (vs1 vs2 : VNum)
  /-- `VMSGE.P16 Vm, Vs1, Vs2` (R144). -/
  | vmsgeP16 (md : MNum) (vs1 vs2 : VNum)
  -- Vector floating point (42_float.md).
  /-- `VFADD.F16 Vd, Vs1, Vs2` (R152). -/
  | vfaddF16 (vd vs1 vs2 : VNum)
  /-- `VFADD.F28 Vd, Vs1, Vs2` (R152). -/
  | vfaddF28 (vd vs1 vs2 : VNum)
  /-- `VFSUB.F16 Vd, Vs1, Vs2` (R153). -/
  | vfsubF16 (vd vs1 vs2 : VNum)
  /-- `VFSUB.F28 Vd, Vs1, Vs2` (R153). -/
  | vfsubF28 (vd vs1 vs2 : VNum)
  /-- `VFMUL.F16 Vd, Vs1, Vs2` (R154). -/
  | vfmulF16 (vd vs1 vs2 : VNum)
  /-- `VFMUL.F28 Vd, Vs1, Vs2` (R154). -/
  | vfmulF28 (vd vs1 vs2 : VNum)
  /-- `VFDIV.F16 Vd, Vs1, Vs2` (R155). -/
  | vfdivF16 (vd vs1 vs2 : VNum)
  /-- `VFDIV.F28 Vd, Vs1, Vs2` (R155). -/
  | vfdivF28 (vd vs1 vs2 : VNum)
  /-- `VFMADD.F16 Vd, Vs1, Vs2, Vs3` (R156). -/
  | vfmaddF16 (vd vs1 vs2 vs3 : VNum)
  /-- `VFMSUB.F16 Vd, Vs1, Vs2, Vs3` (R157). -/
  | vfmsubF16 (vd vs1 vs2 vs3 : VNum)
  /-- `VFNMADD.F16 Vd, Vs1, Vs2, Vs3` (R158). -/
  | vfnmaddF16 (vd vs1 vs2 vs3 : VNum)
  /-- `VFSQRT.F16 Vd, Vs` (R159). -/
  | vfsqrtF16 (vd vs : VNum)
  /-- `VFRCP.F16 Vd, Vs` (R160). -/
  | vfrcpF16 (vd vs : VNum)
  /-- `VFRSQRT.F16 Vd, Vs` (R161). -/
  | vfrsqrtF16 (vd vs : VNum)
  /-- `VFMIN.F16 Vd, Vs1, Vs2` (R162). -/
  | vfminF16 (vd vs1 vs2 : VNum)
  /-- `VFMAX.F16 Vd, Vs1, Vs2` (R163). -/
  | vfmaxF16 (vd vs1 vs2 : VNum)
  /-- `VFABS.F16 Vd, Vs` (R164). -/
  | vfabsF16 (vd vs : VNum)
  /-- `VFNEG.F16 Vd, Vs` (R165). -/
  | vfnegF16 (vd vs : VNum)
  -- Neural network (43_neural.md).
  /-- `VRELU.P16 Vd, Vs` (R180). -/
  | vreluP16 (vd vs : VNum)
  /-- `VRELU.F16 Vd, Vs` (R181). -/
  | vreluF16 (vd vs : VNum)
  /-- `VLRELU.P16 Vd, Vs, alpha` (R182). -/
  | vlreluP16 (vd vs : VNum) (imm : Int)
  /-- `VSIGMOID.F16 Vd, Vs` (R183). -/
  | vsigmoidF16 (vd vs : VNum)
  /-- `VTANH.F16 Vd, Vs` (R184). -/
  | vtanhF16 (vd vs : VNum)
  /-- `VEXP.F16 Vd, Vs` (R185). -/
  | vexpF16 (vd vs : VNum)
  /-- `VREDSUM.F16 Rd, Vd` (R186). -/
  | vredsumF16 (rd : XNum) (vs : VNum)
  /-- `VFDIV.VX.F16 Vd, Vs, Rd` (R187). -/
  | vfdivVxF16 (vd vs : VNum) (rs : XNum)
  /-- `VQUANT5.P16 Vd, Vs, scale` (R189). -/
  | vquant5P16 (vd vs : VNum) (imm : Int)
  /-- `VDEQUANT5.F16 Vd, Vs, scale` (R190). -/
  | vdequant5F16 (vd vs : VNum) (imm : Int)
  /-- `VQUANT25.P16 Vd, Vs, scale` (R191). -/
  | vquant25P16 (vd vs : VNum) (imm : Int)
  /-- `VMAXPOOL2.P16 Vd, Vs` (R193). -/
  | vmaxpool2P16 (vd vs : VNum)
  /-- `VAVGPOOL2.P16 Vd, Vs` (R194). -/
  | vavgpool2P16 (vd vs : VNum)
  /-- `VGAVGPOOL.P16 Rd, Vs` (R195). -/
  | vgavgpoolP16 (rd : XNum) (vs : VNum)
  -- Matrix (44_matrix.md).
  /-- `VMATVEC.P16 Vd, Vm[0:3], Vs` (R201). -/
  | vmatvecP16 (vd : VNum) (base : GNum) (vs : VNum)
  /-- `VOUTER.P16 Vd[0:3], Vs1, Vs2` (R202). -/
  | vouterP16 (base : GNum) (vs1 vs2 : VNum)
  /-- `VMMCROSS.P16 Vd, Vs, mem_addr` (R207). -/
  | vmmcrossP16 (vd vs : VNum) (imm : Int)
  -- Loads and stores (45_memory_ops.md).
  /-- `VLD.P16 Vd, (Rs)` (R211). -/
  | vldP16 (vd : VNum) (rs : XNum)
  /-- `VLD.P28 Vd, (Rs)` (R211). -/
  | vldP28 (vd : VNum) (rs : XNum)
  /-- `VLD.F16 Vd, (Rs)` (R211). -/
  | vldF16 (vd : VNum) (rs : XNum)
  /-- `VST.P16 Vs, (Rd)` (R212). -/
  | vstP16 (vs : VNum) (rd : XNum)
  /-- `VST.P28 Vs, (Rd)` (R212). -/
  | vstP28 (vs : VNum) (rd : XNum)
  /-- `VST.F16 Vs, (Rd)` (R212). -/
  | vstF16 (vs : VNum) (rd : XNum)
  /-- `VLDS.P16 Vd, (Rs), Rt` (R213). -/
  | vldsP16 (vd : VNum) (rs rt : XNum)
  /-- `VSTS.P16 Vs, (Rd), Rt` (R214). -/
  | vstsP16 (vs : VNum) (rd rt : XNum)
  /-- `VLDI.P16 Vd, (Rs), Vi` (R215). -/
  | vldiP16 (vd : VNum) (rs : XNum) (vi : VNum)
  /-- `VSTI.P16 Vs, (Rd), Vi` (R216). -/
  | vstiP16 (vs : VNum) (rd : XNum) (vi : VNum)
  /-- `VLSEG2.P16 Vd, (Rs)` (R217). -/
  | vlseg2P16 (vd : VNum) (rs : XNum)
  /-- `VLSEG3.P16 Vd, (Rs)` (R218). -/
  | vlseg3P16 (vd : VNum) (rs : XNum)
  /-- `VLSEG4.P16 Vd, (Rs)` (R219). -/
  | vlseg4P16 (vd : VNum) (rs : XNum)
  /-- `VSSEG2.P16 Vs, (Rd)` (R220). -/
  | vsseg2P16 (vs : VNum) (rd : XNum)
  -- Predicated and mask instructions (46_masked.md).
  /-- `VADD.P16.M Vd, Vs1, Vs2, Vm` (R232). -/
  | vaddP16M (vd vs1 vs2 : VNum) (vm : MNum)
  /-- `VLD.P16.M Vd, (Rs), Vm` (R233). -/
  | vldP16M (vd : VNum) (rs : XNum) (vm : MNum)
  /-- `VST.P16.M Vs, (Rd), Vm` (R234). -/
  | vstP16M (vs : VNum) (rd : XNum) (vm : MNum)
  /-- `VMPOPC Rd, Vm` (R235). -/
  | vmpopc (rd : XNum) (ma : MNum)
  /-- `VMFFS Rd, Vm` (R236). -/
  | vmffs (rd : XNum) (ma : MNum)
  /-- `VMAND Vd, Vs1, Vs2` (R237). -/
  | vmand (md ma mb : MNum)
  /-- `VMOR Vd, Vs1, Vs2` (R238). -/
  | vmor (md ma mb : MNum)
  /-- `VMXOR Vd, Vs1, Vs2` (R239). -/
  | vmxor (md ma mb : MNum)
  /-- `VMNOT Vd, Vs` (R240). -/
  | vmnot (md ma : MNum)
  -- Permutation (47_permute.md).
  /-- `VPERM.P16 Vd, Vs, Vi` (R251). -/
  | vpermP16 (vd vs vi : VNum)
  /-- `VREV.P16 Vd, Vs` (R252). -/
  | vrevP16 (vd vs : VNum)
  /-- `VROT.P16 Vd, Vs, imm` (R253). -/
  | vrotP16 (vd vs : VNum) (imm : Int)
  /-- `VZIP.P16 Vd1, Vd2, Vs1, Vs2` (R254). -/
  | vzipP16 (vd1 vd2 vs1 vs2 : VNum)
  /-- `VUNZIP.P16 Vd1, Vd2, Vs1, Vs2` (R255). -/
  | vunzipP16 (vd1 vd2 vs1 vs2 : VNum)
  /-- `VBROADCAST.P16 Vd, Rs` (R256). -/
  | vbroadcastP16 (vd : VNum) (rs : XNum)
  /-- `VEXTRACT.P16 Rd, Vs, idx` (R257). -/
  | vextractP16 (rd : XNum) (vs : VNum) (imm : Int)
  /-- `VINSERT.P16 Vd, Rs, idx` (R258). -/
  | vinsertP16 (vd : VNum) (rs : XNum) (imm : Int)
  deriving DecidableEq, Repr

end Sys2Proof
end

