-- ==== Sys2Proof/Machine/Numeral.lean ====
section
/-! DEFINITION. Numbers and pent strings: the value of a string and the string of a number (R13, R14),
element types (R23, R34), and the exact integer operations of the rules (R127, R196). -/

namespace Sys2Proof.Machine

/-- The vector of `f 0`, ..., `f (n - 1)`. -/
def tabulate {α : Type} (n : Nat) (f : Nat → α) : Vector α n :=
  ⟨((List.range n).map f).toArray, by simp⟩

/-! ## Pent strings as integers -/

/-- R13: the value of a digit list, least significant first: the sum of `d[k] * 5^k`. -/
def listVal : List Pent → Int
  | [] => 0
  | d :: ds => d.val + 5 * listVal ds

/-- R13 `ival`: the integer a pent string spells. -/
def ival {n : Nat} (p : Pat n) : Int := listVal p.toList

/-- The balanced base-5 digit that is congruent to `v` modulo 5. -/
def digit (v : Int) : Pent := Pent.ofCode (v % 5).toNat

/-- The low `n` balanced digits of `v`, least significant first. -/
def digits : Nat → Int → List Pent
  | 0, _ => []
  | n + 1, v => digit v :: digits n ((v - (digit v).val) / 5)

theorem digits_length (n : Nat) (v : Int) : (digits n v).length = n := by
  induction n generalizing v with
  | zero => rfl
  | succ n ih => simp [digits, ih]

/-- R14: the `n`-pent string of `wrap_n(v)`, computed as the low `n` pents of the balanced numeral of `v`. -/
def strOf (n : Nat) (v : Int) : Pat n := ⟨(digits n v).toArray, by simp [digits_length]⟩

/-- R13: `HALF(n) = (5^n - 1) / 2`, the largest integer of `n` pents. -/
def half (n : Nat) : Int := (5 ^ n - 1) / 2

/-- R14: the integer of `n` pents congruent to `x` modulo `5^n`. -/
def wrap (n : Nat) (x : Int) : Int := (x + half n) % 5 ^ n - half n

/-! ## Element types -/

/-- R23 `EW`: element width in pents. -/
abbrev ew : EType → Nat
  | .p14 => 14
  | .p16 => 16
  | .p28 => 28
  | .p55 => 55
  | .f16 => 16
  | .f28 => 28
  | .f55 => 55

/-- R23 `EPR`: elements per register. -/
abbrev epr : EType → Nat
  | .p14 => 18
  | .p16 => 16
  | .p28 => 9
  | .p55 => 4
  | .f16 => 16
  | .f28 => 9
  | .f55 => 4

/-- R34: the type code that VTYPE holds and VSETTYPE encodes. -/
def tcode : EType → Int
  | .p14 => 0
  | .p16 => 1
  | .p28 => 2
  | .p55 => 3
  | .f16 => 5
  | .f28 => 6
  | .f55 => 7

/-- R34, R96 item 6: the type of a code, none for a code that is reserved. -/
def typeOfCode (c : Int) : Option EType :=
  if c = 0 then some .p14
  else if c = 1 then some .p16
  else if c = 2 then some .p28
  else if c = 3 then some .p55
  else if c = 5 then some .f16
  else if c = 6 then some .f28
  else if c = 7 then some .f55
  else none

/-- R31: `VLMAX(T) = min(VLEN, EPR(T))`. -/
def vlmax (t : EType) : Nat := min Config.vlen (epr t)

/-! ## Exact integer operations -/

/-- R127 `idiv`: division truncating toward zero. -/
def idiv (a b : Int) : Int := Int.tdiv a b

/-- R127 `imod`: the remainder of `idiv`, zero or of the sign of `a`. -/
def imod (a b : Int) : Int := a - b * idiv a b

/-- R196 `rdiv`: division rounding to the nearest integer, a tie away from zero. -/
def rdiv (a s : Int) : Int :=
  Int.sign a * Int.sign s * (((2 * a.natAbs + s.natAbs) / (2 * s.natAbs) : Nat) : Int)

/-- R196 `clamp`. -/
def clamp (v lo hi : Int) : Int := min (max v lo) hi

end Sys2Proof.Machine
end

