-- ==== Sys2Proof/WellFormed.lean ====
section
/-! DEFINITION. Which instruction terms are instructions: the checks that the operand types do not make
already. An immediate is a signed balanced 9-pent integer (R82); the two destinations of VWMUL, VZIP and
VUNZIP differ (R27, R97). -/

namespace Sys2Proof

/-- R82: the range of a signed 9-pent immediate. -/
def immOk (imm : Int) : Bool := decide (-976562 ≤ imm) && decide (imm ≤ 976562)

/-- R82, R97: the well-formed instructions. -/
def Instr.wellFormed : Instr → Bool
  | .setvl _ _ => true
  | .setvli _ imm => immOk imm
  | .vsettype _ => true
  | .vgetcfg _ => true
  | .vaddP16 _ _ _ => true
  | .vaddP28 _ _ _ => true
  | .vaddP14 _ _ _ => true
  | .vsubP16 _ _ _ => true
  | .vsubP28 _ _ _ => true
  | .vnegP16 _ _ => true
  | .vmulP16 _ _ _ => true
  | .vwmulP16 vd1 vd2 _ _ => decide (vd1 ≠ vd2)
  | .vdivP16 _ _ _ => true
  | .vmodP16 _ _ _ => true
  | .vaddVxP16 _ _ _ => true
  | .vaddViP16 _ _ imm => immOk imm
  | .vmulVxP16 _ _ _ => true
  | .vmulViP16 _ _ imm => immOk imm
  | .vredsumP16 _ _ => true
  | .vredmaxP16 _ _ => true
  | .vredminP16 _ _ => true
  | .vdotP16 _ _ _ => true
  | .vmseqP16 _ _ _ => true
  | .vmsneP16 _ _ _ => true
  | .vmsltP16 _ _ _ => true
  | .vmsleP16 _ _ _ => true
  | .vmsgtP16 _ _ _ => true
  | .vmsgeP16 _ _ _ => true
  | .vfaddF16 _ _ _ => true
  | .vfaddF28 _ _ _ => true
  | .vfsubF16 _ _ _ => true
  | .vfsubF28 _ _ _ => true
  | .vfmulF16 _ _ _ => true
  | .vfmulF28 _ _ _ => true
  | .vfdivF16 _ _ _ => true
  | .vfdivF28 _ _ _ => true
  | .vfmaddF16 _ _ _ _ => true
  | .vfmsubF16 _ _ _ _ => true
  | .vfnmaddF16 _ _ _ _ => true
  | .vfsqrtF16 _ _ => true
  | .vfrcpF16 _ _ => true
  | .vfrsqrtF16 _ _ => true
  | .vfminF16 _ _ _ => true
  | .vfmaxF16 _ _ _ => true
  | .vfabsF16 _ _ => true
  | .vfnegF16 _ _ => true
  | .vreluP16 _ _ => true
  | .vreluF16 _ _ => true
  | .vlreluP16 _ _ imm => immOk imm
  | .vsigmoidF16 _ _ => true
  | .vtanhF16 _ _ => true
  | .vexpF16 _ _ => true
  | .vredsumF16 _ _ => true
  | .vfdivVxF16 _ _ _ => true
  | .vquant5P16 _ _ imm => immOk imm
  | .vdequant5F16 _ _ imm => immOk imm
  | .vquant25P16 _ _ imm => immOk imm
  | .vmaxpool2P16 _ _ => true
  | .vavgpool2P16 _ _ => true
  | .vgavgpoolP16 _ _ => true
  | .vmatvecP16 _ _ _ => true
  | .vouterP16 _ _ _ => true
  | .vmmcrossP16 _ _ imm => immOk imm
  | .vldP16 _ _ => true
  | .vldP28 _ _ => true
  | .vldF16 _ _ => true
  | .vstP16 _ _ => true
  | .vstP28 _ _ => true
  | .vstF16 _ _ => true
  | .vldsP16 _ _ _ => true
  | .vstsP16 _ _ _ => true
  | .vldiP16 _ _ _ => true
  | .vstiP16 _ _ _ => true
  | .vlseg2P16 _ _ => true
  | .vlseg3P16 _ _ => true
  | .vlseg4P16 _ _ => true
  | .vsseg2P16 _ _ => true
  | .vaddP16M _ _ _ _ => true
  | .vldP16M _ _ _ => true
  | .vstP16M _ _ _ => true
  | .vmpopc _ _ => true
  | .vmffs _ _ => true
  | .vmand _ _ _ => true
  | .vmor _ _ _ => true
  | .vmxor _ _ _ => true
  | .vmnot _ _ => true
  | .vpermP16 _ _ _ => true
  | .vrevP16 _ _ => true
  | .vrotP16 _ _ imm => immOk imm
  | .vzipP16 vd1 vd2 _ _ => decide (vd1 ≠ vd2)
  | .vunzipP16 vd1 vd2 _ _ => decide (vd1 ≠ vd2)
  | .vbroadcastP16 _ _ => true
  | .vextractP16 _ _ imm => immOk imm
  | .vinsertP16 _ _ imm => immOk imm

/-- `i` is well-formed. -/
abbrev Instr.WF (i : Instr) : Prop := i.wellFormed = true

end Sys2Proof
end

