-- ==== Sys2Proof/Decode.lean ====
section
/-! DEFINITION. The decoder and, after it, the encoder, both written from the field layout of R80 to R90
and the table of R101. A word that is no instruction is rejected by the name of the item of R96 it meets. -/

namespace Sys2Proof

open Sys2Proof.Machine

/-! ## Fields (R80, R81) -/

/-- R81: the number a string of code pents spells in base 5, least significant first. -/
def codeNum : List Pent → Nat
  | [] => 0
  | d :: ds => d.code + 5 * codeNum ds

/-- R81 read backwards: the `len` code pents of a number. -/
def codePents : Nat → Nat → List Pent
  | 0, _ => []
  | len + 1, v => Pent.ofCode v :: codePents len (v / 5)

theorem codePents_length (len v : Nat) : (codePents len v).length = len := by
  induction len generalizing v with
  | zero => rfl
  | succ n ih => simp [codePents, ih]

/-- R80: the eight fields of a word; Extra stays a string, since it is read in two ways (R82, R86). -/
structure Fields where
  vop : Nat
  vd : Nat
  vs1 : Nat
  vs2 : Nat
  vm : Nat
  width : Nat
  func : Nat
  extra : Pat 9
  deriving DecidableEq, Repr

/-- R81: the number in pents `lo + len - 1` down to `lo` of a word. -/
def field (w : InstrWord) (lo len : Nat) : Nat := codeNum ((w.toList.drop lo).take len)

/-- R80: the fields of a word. -/
def Fields.ofWord (w : InstrWord) : Fields where
  vop := field w 22 2
  vd := field w 19 3
  vs1 := field w 16 3
  vs2 := field w 13 3
  vm := field w 11 2
  width := field w 10 1
  func := field w 9 1
  extra := tabulate 9 fun k => (w[k]?).getD .zero

/-- R80: the word of the fields, pent 0 first. -/
def Fields.toWord (f : Fields) : InstrWord :=
  ⟨(f.extra.toList ++ codePents 1 f.func ++ codePents 1 f.width ++ codePents 2 f.vm
      ++ codePents 3 f.vs2 ++ codePents 3 f.vs1 ++ codePents 3 f.vd ++ codePents 2 f.vop).toArray,
    by simp [codePents_length]⟩

/-! ## Reading operands out of fields -/

/-- R96, R97: why a word is a reserved encoding. -/
inductive Reject where
  /-- Item 1: VOP and Func select a reserved cell of R89. -/
  | reservedOpcode
  /-- Item 2: the Width code is not assigned to this VOP and Func. -/
  | unassignedWidth
  /-- Item 3: a Vm field that this spelling may not have. -/
  | predicateField
  /-- Item 4: an unused field, or an unused part of Extra, is not 0. -/
  | unusedField
  /-- Item 5, R86: a register number out of range, or a group base above 28. -/
  | registerRange
  /-- Item 5, R97: the two destinations of a pair are the same register. -/
  | sameDestination
  /-- Item 6: VSETTYPE with an immediate that is no type code. -/
  | typeCode
  deriving DecidableEq, Repr

/-- R86: a register number below the bound of its file. -/
def regNum (bound n : Nat) : Except Reject (Fin bound) :=
  if h : n < bound then .ok ⟨n, h⟩ else .error .registerRange

/-- R96 item 4: a field that the operand form leaves unused. -/
def unused (n : Nat) : Except Reject Unit := if n = 0 then .ok () else .error .unusedField

/-- R87: no predicate. -/
def noMask (f : Fields) : Except Reject Unit := if f.vm = 0 then .ok () else .error .predicateField

/-- R87: the predicate VMk of a masked spelling, `1 + k` in the Vm field. -/
def maskOf (f : Fields) : Except Reject MNum :=
  if h : 1 ≤ f.vm ∧ f.vm ≤ 8 then .ok ⟨f.vm - 1, by omega⟩ else .error .predicateField

/-- The Extra field of nine zero pents. -/
def zeroExtra : Pat 9 := Vector.replicate 9 .zero

/-- R96 item 4: Extra unused. -/
def noExtra (f : Fields) : Except Reject Unit :=
  if f.extra = zeroExtra then .ok () else .error .unusedField

/-- R86: the fourth register, in Extra pents 2:0 under six zero pents. -/
def extraReg (f : Fields) : Except Reject VNum :=
  if (f.extra.toList.drop 3).all (· == .zero) then regNum 32 (codeNum (f.extra.toList.take 3))
  else .error .unusedField

/-- R82: the signed balanced immediate in Extra. -/
def immOf (f : Fields) : Int := ival f.extra

/-! ## The operand forms of R90 -/

/-- R90: `Rd, imm`. -/
def formXImm (f : Fields) (mk : XNum → Int → Instr) : Except Reject Instr := do
  noMask f
  let d ← regNum 32 f.vd
  unused f.vs1
  unused f.vs2
  return mk d (immOf f)

/-- R90: `Rd`. -/
def formX (f : Fields) (mk : XNum → Instr) : Except Reject Instr := do
  noMask f
  let d ← regNum 32 f.vd
  unused f.vs1
  unused f.vs2
  noExtra f
  return mk d

/-- R90: three registers of 32: `Vd, Vs1, Vs2`, `Vd, Vs, Rs`, `Vd, (Rs), Rt` and their like. -/
def formRRR (f : Fields) (mk : VNum → VNum → VNum → Instr) : Except Reject Instr := do
  noMask f
  let d ← regNum 32 f.vd
  let a ← regNum 32 f.vs1
  let b ← regNum 32 f.vs2
  noExtra f
  return mk d a b

/-- R90: `Vd, Vs1, Vs2, Vm`. -/
def formRRRMasked (f : Fields) (mk : VNum → VNum → VNum → MNum → Instr) : Except Reject Instr := do
  let m ← maskOf f
  let d ← regNum 32 f.vd
  let a ← regNum 32 f.vs1
  let b ← regNum 32 f.vs2
  noExtra f
  return mk d a b m

/-- R90: two registers of 32: `Vd, Vs`, `Rd, Vs`, `Vd, (Rs)` and their like. -/
def formRR (f : Fields) (mk : VNum → VNum → Instr) : Except Reject Instr := do
  noMask f
  let d ← regNum 32 f.vd
  let a ← regNum 32 f.vs1
  unused f.vs2
  noExtra f
  return mk d a

/-- R90: `Vd, (Rs), Vm` and `Vs, (Rd), Vm`. -/
def formRRMasked (f : Fields) (mk : VNum → VNum → MNum → Instr) : Except Reject Instr := do
  let m ← maskOf f
  let d ← regNum 32 f.vd
  let a ← regNum 32 f.vs1
  unused f.vs2
  noExtra f
  return mk d a m

/-- R90: `Vd, Vs1, Vs2, Vs3`. -/
def formRRRR (f : Fields) (mk : VNum → VNum → VNum → VNum → Instr) : Except Reject Instr := do
  noMask f
  let d ← regNum 32 f.vd
  let a ← regNum 32 f.vs1
  let b ← regNum 32 f.vs2
  let c ← extraReg f
  return mk d a b c

/-- R90: two registers of 32 and an immediate. -/
def formRRImm (f : Fields) (mk : VNum → VNum → Int → Instr) : Except Reject Instr := do
  noMask f
  let d ← regNum 32 f.vd
  let a ← regNum 32 f.vs1
  unused f.vs2
  return mk d a (immOf f)

/-- R90: `Vm, Vs1, Vs2` of the comparisons. -/
def formMRR (f : Fields) (mk : MNum → VNum → VNum → Instr) : Except Reject Instr := do
  noMask f
  let d ← regNum 8 f.vd
  let a ← regNum 32 f.vs1
  let b ← regNum 32 f.vs2
  noExtra f
  return mk d a b

/-- R90: `Vd, Vm[0:3], Vs`. -/
def formRGR (f : Fields) (mk : VNum → GNum → VNum → Instr) : Except Reject Instr := do
  noMask f
  let d ← regNum 32 f.vd
  let a ← regNum 29 f.vs1
  let b ← regNum 32 f.vs2
  noExtra f
  return mk d a b

/-- R90: `Vd[0:3], Vs1, Vs2`. -/
def formGRR (f : Fields) (mk : GNum → VNum → VNum → Instr) : Except Reject Instr := do
  noMask f
  let d ← regNum 29 f.vd
  let a ← regNum 32 f.vs1
  let b ← regNum 32 f.vs2
  noExtra f
  return mk d a b

/-- R90: `Rd, Vm`. -/
def formRM (f : Fields) (mk : XNum → MNum → Instr) : Except Reject Instr := do
  noMask f
  let d ← regNum 32 f.vd
  let a ← regNum 8 f.vs1
  unused f.vs2
  noExtra f
  return mk d a

/-- R90: `Vd, Vs1, Vs2` (masks). -/
def formMMM (f : Fields) (mk : MNum → MNum → MNum → Instr) : Except Reject Instr := do
  noMask f
  let d ← regNum 8 f.vd
  let a ← regNum 8 f.vs1
  let b ← regNum 8 f.vs2
  noExtra f
  return mk d a b

/-- R90: `Vd, Vs` (masks). -/
def formMM (f : Fields) (mk : MNum → MNum → Instr) : Except Reject Instr := do
  noMask f
  let d ← regNum 8 f.vd
  let a ← regNum 8 f.vs1
  unused f.vs2
  noExtra f
  return mk d a

/-- R90, R97: two destinations that must differ, `Vd2:Vd1, Vs1, Vs2` and `Vd1, Vd2, Vs1, Vs2`. -/
def formPair (f : Fields) (mk : VNum → VNum → VNum → VNum → Instr) : Except Reject Instr := do
  noMask f
  let d1 ← regNum 32 f.vd
  let a ← regNum 32 f.vs1
  let b ← regNum 32 f.vs2
  let d2 ← extraReg f
  if d1 = d2 then .error .sameDestination else return mk d1 d2 a b

/-- R90, R96 item 6: `type`, a type code in Extra. -/
def formType (f : Fields) (mk : EType → Instr) : Except Reject Instr := do
  noMask f
  unused f.vd
  unused f.vs1
  unused f.vs2
  match typeOfCode (immOf f) with
  | some t => return mk t
  | none => .error .typeCode

/-! ## The opcode map (R89, R101): one function per VOP -/

/-- A width code that the opcode is not listed with (R96 item 2). -/
def onlyWidth (w : Nat) (f : Fields) (k : Except Reject Instr) : Except Reject Instr :=
  if f.width = w then k else .error .unassignedWidth

/-- R89: VOP 1. -/
def decodeVop1 (f : Fields) : Except Reject Instr :=
  match f.func with
  | 0 => onlyWidth 0 f (formRR f .setvl)
  | 1 => onlyWidth 0 f (formXImm f .setvli)
  | 2 => onlyWidth 0 f (formType f .vsettype)
  | 3 => onlyWidth 0 f (formX f .vgetcfg)
  | _ => .error .reservedOpcode

/-- R89: VOP 2. -/
def decodeVop2 (f : Fields) : Except Reject Instr :=
  match f.func with
  | 0 =>
    match f.width with
    | 0 => formRRR f .vaddP14
    | 1 => if f.vm = 0 then formRRR f .vaddP16 else formRRRMasked f .vaddP16M
    | 2 => formRRR f .vaddP28
    | _ => .error .unassignedWidth
  | 1 =>
    match f.width with
    | 1 => formRRR f .vsubP16
    | 2 => formRRR f .vsubP28
    | _ => .error .unassignedWidth
  | 2 => onlyWidth 1 f (formRR f .vnegP16)
  | 3 => onlyWidth 1 f (formRRR f .vmulP16)
  | 4 => onlyWidth 1 f (formPair f .vwmulP16)
  | _ => .error .reservedOpcode

/-- R89: VOP 3. -/
def decodeVop3 (f : Fields) : Except Reject Instr :=
  match f.func with
  | 0 => onlyWidth 1 f (formRRR f .vdivP16)
  | 1 => onlyWidth 1 f (formRRR f .vmodP16)
  | _ => .error .reservedOpcode

/-- R89: VOP 4. -/
def decodeVop4 (f : Fields) : Except Reject Instr :=
  match f.func with
  | 0 => onlyWidth 1 f (formRRR f .vaddVxP16)
  | 1 => onlyWidth 1 f (formRRImm f .vaddViP16)
  | 2 => onlyWidth 1 f (formRRR f .vmulVxP16)
  | 3 => onlyWidth 1 f (formRRImm f .vmulViP16)
  | _ => .error .reservedOpcode

/-- R89: VOP 5. -/
def decodeVop5 (f : Fields) : Except Reject Instr :=
  match f.func with
  | 0 => onlyWidth 1 f (formRR f .vredsumP16)
  | 1 => onlyWidth 1 f (formRR f .vredmaxP16)
  | 2 => onlyWidth 1 f (formRR f .vredminP16)
  | 3 => onlyWidth 1 f (formRRR f .vdotP16)
  | _ => .error .reservedOpcode

/-- R89: VOP 6. -/
def decodeVop6 (f : Fields) : Except Reject Instr :=
  match f.func with
  | 0 => onlyWidth 1 f (formMRR f .vmseqP16)
  | 1 => onlyWidth 1 f (formMRR f .vmsneP16)
  | 2 => onlyWidth 1 f (formMRR f .vmsltP16)
  | 3 => onlyWidth 1 f (formMRR f .vmsleP16)
  | 4 => onlyWidth 1 f (formMRR f .vmsgtP16)
  | _ => .error .reservedOpcode

/-- R89: VOP 7. -/
def decodeVop7 (f : Fields) : Except Reject Instr :=
  match f.func with
  | 0 => onlyWidth 1 f (formMRR f .vmsgeP16)
  | _ => .error .reservedOpcode

/-- R89: VOP 8. -/
def decodeVop8 (f : Fields) : Except Reject Instr :=
  match f.func with
  | 0 =>
    match f.width with
    | 1 => formRRR f .vfaddF16
    | 2 => formRRR f .vfaddF28
    | _ => .error .unassignedWidth
  | 1 =>
    match f.width with
    | 1 => formRRR f .vfsubF16
    | 2 => formRRR f .vfsubF28
    | _ => .error .unassignedWidth
  | 2 =>
    match f.width with
    | 1 => formRRR f .vfmulF16
    | 2 => formRRR f .vfmulF28
    | _ => .error .unassignedWidth
  | 3 =>
    match f.width with
    | 1 => formRRR f .vfdivF16
    | 2 => formRRR f .vfdivF28
    | _ => .error .unassignedWidth
  | 4 => onlyWidth 1 f (formRRR f .vfdivVxF16)
  | _ => .error .reservedOpcode

/-- R89: VOP 9. -/
def decodeVop9 (f : Fields) : Except Reject Instr :=
  match f.func with
  | 0 => onlyWidth 1 f (formRRRR f .vfmaddF16)
  | 1 => onlyWidth 1 f (formRRRR f .vfmsubF16)
  | 2 => onlyWidth 1 f (formRRRR f .vfnmaddF16)
  | _ => .error .reservedOpcode

/-- R89: VOP 10. -/
def decodeVop10 (f : Fields) : Except Reject Instr :=
  match f.func with
  | 0 => onlyWidth 1 f (formRR f .vfsqrtF16)
  | 1 => onlyWidth 1 f (formRR f .vfrcpF16)
  | 2 => onlyWidth 1 f (formRR f .vfrsqrtF16)
  | 3 => onlyWidth 1 f (formRRR f .vfminF16)
  | 4 => onlyWidth 1 f (formRRR f .vfmaxF16)
  | _ => .error .reservedOpcode

/-- R89: VOP 11. -/
def decodeVop11 (f : Fields) : Except Reject Instr :=
  match f.func with
  | 0 => onlyWidth 1 f (formRR f .vfabsF16)
  | 1 => onlyWidth 1 f (formRR f .vfnegF16)
  | _ => .error .reservedOpcode

/-- R89: VOP 12. -/
def decodeVop12 (f : Fields) : Except Reject Instr :=
  match f.func with
  | 0 => onlyWidth 1 f (formRR f .vreluP16)
  | 1 => onlyWidth 1 f (formRR f .vreluF16)
  | 2 => onlyWidth 1 f (formRRImm f .vlreluP16)
  | 3 => onlyWidth 1 f (formRR f .vsigmoidF16)
  | 4 => onlyWidth 1 f (formRR f .vtanhF16)
  | _ => .error .reservedOpcode

/-- R89: VOP 13. -/
def decodeVop13 (f : Fields) : Except Reject Instr :=
  match f.func with
  | 0 => onlyWidth 1 f (formRR f .vexpF16)
  | 1 => onlyWidth 1 f (formRR f .vredsumF16)
  | _ => .error .reservedOpcode

/-- R89: VOP 14. -/
def decodeVop14 (f : Fields) : Except Reject Instr :=
  match f.func with
  | 0 => onlyWidth 1 f (formRRImm f .vquant5P16)
  | 1 => onlyWidth 1 f (formRRImm f .vdequant5F16)
  | 2 => onlyWidth 1 f (formRRImm f .vquant25P16)
  | _ => .error .reservedOpcode

/-- R89: VOP 15. -/
def decodeVop15 (f : Fields) : Except Reject Instr :=
  match f.func with
  | 0 => onlyWidth 1 f (formRR f .vmaxpool2P16)
  | 1 => onlyWidth 1 f (formRR f .vavgpool2P16)
  | 2 => onlyWidth 1 f (formRR f .vgavgpoolP16)
  | _ => .error .reservedOpcode

/-- R89: VOP 16. -/
def decodeVop16 (f : Fields) : Except Reject Instr :=
  match f.func with
  | 0 => onlyWidth 1 f (formRGR f .vmatvecP16)
  | 1 => onlyWidth 1 f (formGRR f .vouterP16)
  | 2 => onlyWidth 1 f (formRRImm f .vmmcrossP16)
  | _ => .error .reservedOpcode

/-- R89: VOP 17. -/
def decodeVop17 (f : Fields) : Except Reject Instr :=
  match f.func with
  | 0 =>
    match f.width with
    | 1 => if f.vm = 0 then formRR f .vldP16 else formRRMasked f .vldP16M
    | 2 => formRR f .vldP28
    | _ => .error .unassignedWidth
  | 1 => onlyWidth 1 f (formRR f .vldF16)
  | 2 =>
    match f.width with
    | 1 => if f.vm = 0 then formRR f .vstP16 else formRRMasked f .vstP16M
    | 2 => formRR f .vstP28
    | _ => .error .unassignedWidth
  | 3 => onlyWidth 1 f (formRR f .vstF16)
  | _ => .error .reservedOpcode

/-- R89: VOP 18. -/
def decodeVop18 (f : Fields) : Except Reject Instr :=
  match f.func with
  | 0 => onlyWidth 1 f (formRRR f .vldsP16)
  | 1 => onlyWidth 1 f (formRRR f .vstsP16)
  | 2 => onlyWidth 1 f (formRRR f .vldiP16)
  | 3 => onlyWidth 1 f (formRRR f .vstiP16)
  | _ => .error .reservedOpcode

/-- R89: VOP 19. -/
def decodeVop19 (f : Fields) : Except Reject Instr :=
  match f.func with
  | 0 => onlyWidth 1 f (formRR f .vlseg2P16)
  | 1 => onlyWidth 1 f (formRR f .vlseg3P16)
  | 2 => onlyWidth 1 f (formRR f .vlseg4P16)
  | 3 => onlyWidth 1 f (formRR f .vsseg2P16)
  | _ => .error .reservedOpcode

/-- R89: VOP 20. -/
def decodeVop20 (f : Fields) : Except Reject Instr :=
  match f.func with
  | 0 => onlyWidth 0 f (formRM f .vmpopc)
  | 1 => onlyWidth 0 f (formRM f .vmffs)
  | 2 => onlyWidth 0 f (formMMM f .vmand)
  | 3 => onlyWidth 0 f (formMMM f .vmor)
  | 4 => onlyWidth 0 f (formMMM f .vmxor)
  | _ => .error .reservedOpcode

/-- R89: VOP 21. -/
def decodeVop21 (f : Fields) : Except Reject Instr :=
  match f.func with
  | 0 => onlyWidth 0 f (formMM f .vmnot)
  | _ => .error .reservedOpcode

/-- R89: VOP 22. -/
def decodeVop22 (f : Fields) : Except Reject Instr :=
  match f.func with
  | 0 => onlyWidth 1 f (formRRR f .vpermP16)
  | 1 => onlyWidth 1 f (formRR f .vrevP16)
  | 2 => onlyWidth 1 f (formRRImm f .vrotP16)
  | 3 => onlyWidth 1 f (formPair f .vzipP16)
  | 4 => onlyWidth 1 f (formPair f .vunzipP16)
  | _ => .error .reservedOpcode

/-- R89: VOP 23. -/
def decodeVop23 (f : Fields) : Except Reject Instr :=
  match f.func with
  | 0 => onlyWidth 1 f (formRR f .vbroadcastP16)
  | 1 => onlyWidth 1 f (formRRImm f .vextractP16)
  | 2 => onlyWidth 1 f (formRRImm f .vinsertP16)
  | _ => .error .reservedOpcode

/-- R89, R101: the instruction of the fields. VOP 0 and VOP 24 are reserved (R98). -/
def decodeFields (f : Fields) : Except Reject Instr :=
  match f.vop with
  | 1 => decodeVop1 f
  | 2 => decodeVop2 f
  | 3 => decodeVop3 f
  | 4 => decodeVop4 f
  | 5 => decodeVop5 f
  | 6 => decodeVop6 f
  | 7 => decodeVop7 f
  | 8 => decodeVop8 f
  | 9 => decodeVop9 f
  | 10 => decodeVop10 f
  | 11 => decodeVop11 f
  | 12 => decodeVop12 f
  | 13 => decodeVop13 f
  | 14 => decodeVop14 f
  | 15 => decodeVop15 f
  | 16 => decodeVop16 f
  | 17 => decodeVop17 f
  | 18 => decodeVop18 f
  | 19 => decodeVop19 f
  | 20 => decodeVop20 f
  | 21 => decodeVop21 f
  | 22 => decodeVop22 f
  | 23 => decodeVop23 f
  | _ => .error .reservedOpcode

/-- R80, R101: the instruction of a word, or why it is a reserved encoding (R96). -/
def decode (w : InstrWord) : Except Reject Instr := decodeFields (Fields.ofWord w)

/-! ## The encoder -/

/-- R82: an immediate as Extra. -/
def immExtra (imm : Int) : Pat 9 := strOf 9 imm

/-- R86: a register number in Extra pents 2:0. -/
def regExtra (n : Nat) : Pat 9 :=
  ⟨(codePents 3 n ++ List.replicate 6 Pent.zero).toArray, by simp [codePents_length]⟩

/-- R90, R101: the fields of an instruction; a field that no operand uses is 0. -/
def encodeFields : Instr → Fields
  | .setvl rd rs => ⟨1, rd, rs, 0, 0, 0, 0, zeroExtra⟩
  | .setvli rd imm => ⟨1, rd, 0, 0, 0, 0, 1, immExtra imm⟩
  | .vsettype t => ⟨1, 0, 0, 0, 0, 0, 2, immExtra (tcode t)⟩
  | .vgetcfg rd => ⟨1, rd, 0, 0, 0, 0, 3, zeroExtra⟩
  | .vaddP16 vd vs1 vs2 => ⟨2, vd, vs1, vs2, 0, 1, 0, zeroExtra⟩
  | .vaddP28 vd vs1 vs2 => ⟨2, vd, vs1, vs2, 0, 2, 0, zeroExtra⟩
  | .vaddP14 vd vs1 vs2 => ⟨2, vd, vs1, vs2, 0, 0, 0, zeroExtra⟩
  | .vsubP16 vd vs1 vs2 => ⟨2, vd, vs1, vs2, 0, 1, 1, zeroExtra⟩
  | .vsubP28 vd vs1 vs2 => ⟨2, vd, vs1, vs2, 0, 2, 1, zeroExtra⟩
  | .vnegP16 vd vs => ⟨2, vd, vs, 0, 0, 1, 2, zeroExtra⟩
  | .vmulP16 vd vs1 vs2 => ⟨2, vd, vs1, vs2, 0, 1, 3, zeroExtra⟩
  | .vwmulP16 vd1 vd2 vs1 vs2 => ⟨2, vd1, vs1, vs2, 0, 1, 4, regExtra vd2⟩
  | .vdivP16 vd vs1 vs2 => ⟨3, vd, vs1, vs2, 0, 1, 0, zeroExtra⟩
  | .vmodP16 vd vs1 vs2 => ⟨3, vd, vs1, vs2, 0, 1, 1, zeroExtra⟩
  | .vaddVxP16 vd vs rs => ⟨4, vd, vs, rs, 0, 1, 0, zeroExtra⟩
  | .vaddViP16 vd vs imm => ⟨4, vd, vs, 0, 0, 1, 1, immExtra imm⟩
  | .vmulVxP16 vd vs rs => ⟨4, vd, vs, rs, 0, 1, 2, zeroExtra⟩
  | .vmulViP16 vd vs imm => ⟨4, vd, vs, 0, 0, 1, 3, immExtra imm⟩
  | .vredsumP16 rd vs => ⟨5, rd, vs, 0, 0, 1, 0, zeroExtra⟩
  | .vredmaxP16 rd vs => ⟨5, rd, vs, 0, 0, 1, 1, zeroExtra⟩
  | .vredminP16 rd vs => ⟨5, rd, vs, 0, 0, 1, 2, zeroExtra⟩
  | .vdotP16 rd vs1 vs2 => ⟨5, rd, vs1, vs2, 0, 1, 3, zeroExtra⟩
  | .vmseqP16 md vs1 vs2 => ⟨6, md, vs1, vs2, 0, 1, 0, zeroExtra⟩
  | .vmsneP16 md vs1 vs2 => ⟨6, md, vs1, vs2, 0, 1, 1, zeroExtra⟩
  | .vmsltP16 md vs1 vs2 => ⟨6, md, vs1, vs2, 0, 1, 2, zeroExtra⟩
  | .vmsleP16 md vs1 vs2 => ⟨6, md, vs1, vs2, 0, 1, 3, zeroExtra⟩
  | .vmsgtP16 md vs1 vs2 => ⟨6, md, vs1, vs2, 0, 1, 4, zeroExtra⟩
  | .vmsgeP16 md vs1 vs2 => ⟨7, md, vs1, vs2, 0, 1, 0, zeroExtra⟩
  | .vfaddF16 vd vs1 vs2 => ⟨8, vd, vs1, vs2, 0, 1, 0, zeroExtra⟩
  | .vfaddF28 vd vs1 vs2 => ⟨8, vd, vs1, vs2, 0, 2, 0, zeroExtra⟩
  | .vfsubF16 vd vs1 vs2 => ⟨8, vd, vs1, vs2, 0, 1, 1, zeroExtra⟩
  | .vfsubF28 vd vs1 vs2 => ⟨8, vd, vs1, vs2, 0, 2, 1, zeroExtra⟩
  | .vfmulF16 vd vs1 vs2 => ⟨8, vd, vs1, vs2, 0, 1, 2, zeroExtra⟩
  | .vfmulF28 vd vs1 vs2 => ⟨8, vd, vs1, vs2, 0, 2, 2, zeroExtra⟩
  | .vfdivF16 vd vs1 vs2 => ⟨8, vd, vs1, vs2, 0, 1, 3, zeroExtra⟩
  | .vfdivF28 vd vs1 vs2 => ⟨8, vd, vs1, vs2, 0, 2, 3, zeroExtra⟩
  | .vfmaddF16 vd vs1 vs2 vs3 => ⟨9, vd, vs1, vs2, 0, 1, 0, regExtra vs3⟩
  | .vfmsubF16 vd vs1 vs2 vs3 => ⟨9, vd, vs1, vs2, 0, 1, 1, regExtra vs3⟩
  | .vfnmaddF16 vd vs1 vs2 vs3 => ⟨9, vd, vs1, vs2, 0, 1, 2, regExtra vs3⟩
  | .vfsqrtF16 vd vs => ⟨10, vd, vs, 0, 0, 1, 0, zeroExtra⟩
  | .vfrcpF16 vd vs => ⟨10, vd, vs, 0, 0, 1, 1, zeroExtra⟩
  | .vfrsqrtF16 vd vs => ⟨10, vd, vs, 0, 0, 1, 2, zeroExtra⟩
  | .vfminF16 vd vs1 vs2 => ⟨10, vd, vs1, vs2, 0, 1, 3, zeroExtra⟩
  | .vfmaxF16 vd vs1 vs2 => ⟨10, vd, vs1, vs2, 0, 1, 4, zeroExtra⟩
  | .vfabsF16 vd vs => ⟨11, vd, vs, 0, 0, 1, 0, zeroExtra⟩
  | .vfnegF16 vd vs => ⟨11, vd, vs, 0, 0, 1, 1, zeroExtra⟩
  | .vreluP16 vd vs => ⟨12, vd, vs, 0, 0, 1, 0, zeroExtra⟩
  | .vreluF16 vd vs => ⟨12, vd, vs, 0, 0, 1, 1, zeroExtra⟩
  | .vlreluP16 vd vs imm => ⟨12, vd, vs, 0, 0, 1, 2, immExtra imm⟩
  | .vsigmoidF16 vd vs => ⟨12, vd, vs, 0, 0, 1, 3, zeroExtra⟩
  | .vtanhF16 vd vs => ⟨12, vd, vs, 0, 0, 1, 4, zeroExtra⟩
  | .vexpF16 vd vs => ⟨13, vd, vs, 0, 0, 1, 0, zeroExtra⟩
  | .vredsumF16 rd vs => ⟨13, rd, vs, 0, 0, 1, 1, zeroExtra⟩
  | .vfdivVxF16 vd vs rs => ⟨8, vd, vs, rs, 0, 1, 4, zeroExtra⟩
  | .vquant5P16 vd vs imm => ⟨14, vd, vs, 0, 0, 1, 0, immExtra imm⟩
  | .vdequant5F16 vd vs imm => ⟨14, vd, vs, 0, 0, 1, 1, immExtra imm⟩
  | .vquant25P16 vd vs imm => ⟨14, vd, vs, 0, 0, 1, 2, immExtra imm⟩
  | .vmaxpool2P16 vd vs => ⟨15, vd, vs, 0, 0, 1, 0, zeroExtra⟩
  | .vavgpool2P16 vd vs => ⟨15, vd, vs, 0, 0, 1, 1, zeroExtra⟩
  | .vgavgpoolP16 rd vs => ⟨15, rd, vs, 0, 0, 1, 2, zeroExtra⟩
  | .vmatvecP16 vd base vs => ⟨16, vd, base, vs, 0, 1, 0, zeroExtra⟩
  | .vouterP16 base vs1 vs2 => ⟨16, base, vs1, vs2, 0, 1, 1, zeroExtra⟩
  | .vmmcrossP16 vd vs imm => ⟨16, vd, vs, 0, 0, 1, 2, immExtra imm⟩
  | .vldP16 vd rs => ⟨17, vd, rs, 0, 0, 1, 0, zeroExtra⟩
  | .vldP28 vd rs => ⟨17, vd, rs, 0, 0, 2, 0, zeroExtra⟩
  | .vldF16 vd rs => ⟨17, vd, rs, 0, 0, 1, 1, zeroExtra⟩
  | .vstP16 vs rd => ⟨17, vs, rd, 0, 0, 1, 2, zeroExtra⟩
  | .vstP28 vs rd => ⟨17, vs, rd, 0, 0, 2, 2, zeroExtra⟩
  | .vstF16 vs rd => ⟨17, vs, rd, 0, 0, 1, 3, zeroExtra⟩
  | .vldsP16 vd rs rt => ⟨18, vd, rs, rt, 0, 1, 0, zeroExtra⟩
  | .vstsP16 vs rd rt => ⟨18, vs, rd, rt, 0, 1, 1, zeroExtra⟩
  | .vldiP16 vd rs vi => ⟨18, vd, rs, vi, 0, 1, 2, zeroExtra⟩
  | .vstiP16 vs rd vi => ⟨18, vs, rd, vi, 0, 1, 3, zeroExtra⟩
  | .vlseg2P16 vd rs => ⟨19, vd, rs, 0, 0, 1, 0, zeroExtra⟩
  | .vlseg3P16 vd rs => ⟨19, vd, rs, 0, 0, 1, 1, zeroExtra⟩
  | .vlseg4P16 vd rs => ⟨19, vd, rs, 0, 0, 1, 2, zeroExtra⟩
  | .vsseg2P16 vs rd => ⟨19, vs, rd, 0, 0, 1, 3, zeroExtra⟩
  | .vaddP16M vd vs1 vs2 vm => ⟨2, vd, vs1, vs2, vm + 1, 1, 0, zeroExtra⟩
  | .vldP16M vd rs vm => ⟨17, vd, rs, 0, vm + 1, 1, 0, zeroExtra⟩
  | .vstP16M vs rd vm => ⟨17, vs, rd, 0, vm + 1, 1, 2, zeroExtra⟩
  | .vmpopc rd ma => ⟨20, rd, ma, 0, 0, 0, 0, zeroExtra⟩
  | .vmffs rd ma => ⟨20, rd, ma, 0, 0, 0, 1, zeroExtra⟩
  | .vmand md ma mb => ⟨20, md, ma, mb, 0, 0, 2, zeroExtra⟩
  | .vmor md ma mb => ⟨20, md, ma, mb, 0, 0, 3, zeroExtra⟩
  | .vmxor md ma mb => ⟨20, md, ma, mb, 0, 0, 4, zeroExtra⟩
  | .vmnot md ma => ⟨21, md, ma, 0, 0, 0, 0, zeroExtra⟩
  | .vpermP16 vd vs vi => ⟨22, vd, vs, vi, 0, 1, 0, zeroExtra⟩
  | .vrevP16 vd vs => ⟨22, vd, vs, 0, 0, 1, 1, zeroExtra⟩
  | .vrotP16 vd vs imm => ⟨22, vd, vs, 0, 0, 1, 2, immExtra imm⟩
  | .vzipP16 vd1 vd2 vs1 vs2 => ⟨22, vd1, vs1, vs2, 0, 1, 3, regExtra vd2⟩
  | .vunzipP16 vd1 vd2 vs1 vs2 => ⟨22, vd1, vs1, vs2, 0, 1, 4, regExtra vd2⟩
  | .vbroadcastP16 vd rs => ⟨23, vd, rs, 0, 0, 1, 0, zeroExtra⟩
  | .vextractP16 rd vs imm => ⟨23, rd, vs, 0, 0, 1, 1, immExtra imm⟩
  | .vinsertP16 vd rs imm => ⟨23, vd, rs, 0, 0, 1, 2, immExtra imm⟩

/-- R80, R101: the word of an instruction. -/
def encode (i : Instr) : InstrWord := (encodeFields i).toWord

/-! ## The opcode table's numbering of a word

The table writes a word as 24 positions, 23 first, one per pent. A number `w` of `nbits` bits gives every
position `nbits / 24` bits (at least one), position 0 the least significant: with 24 bits the bit of a position
is its pent's code, 0 or 1; with 72 bits every code has three bits. DESIGN CHOICE (log entry 11). -/

/-- The code at position `k` of the table's word `w`. -/
def tableCode (nbits w k : Nat) : Nat :=
  let d := max 1 (nbits / 24)
  w % 2 ^ nbits / 2 ^ (k * d) % 2 ^ d

/-- The instruction word that the table's number `w` stands for. -/
def tableWord (nbits w : Nat) : InstrWord := tabulate 24 fun k => Pent.ofCode (tableCode nbits w k)

/-- Every position holds the code of a pent. -/
def tableWordOk (nbits w : Nat) : Bool := (List.range 24).all fun k => decide (tableCode nbits w k < 5)

/-- The instruction the decoder reads from the table's word `w`, none where it rejects. -/
def decodeTableWord (nbits w : Nat) : Option Instr :=
  if tableWordOk nbits w then
    match decode (tableWord nbits w) with
    | .ok i => some i
    | .error _ => none
  else none

end Sys2Proof
end

