-- ==== Sys2Proof/Machine/State.lean ====
section
/-! DEFINITION. The architectural state (R20), the faults (R271), the refusals, and the state after reset
(R45, R290). -/

namespace Sys2Proof.Machine

/-- R271 no. 2: the item of state that an `UndefRead` names. -/
inductive Item where
  /-- The vector length register. -/
  | vl
  /-- The vector type register. -/
  | vtype
  /-- Scalar register `r`. -/
  | x (r : XNum)
  /-- Bit `i` of mask register `k`. -/
  | vm (k : MNum) (i : Nat)
  /-- Pent `p` of vector register `n`. -/
  | v (n : VNum) (p : Nat)
  /-- The memory pent at address `a`. -/
  | mem (a : Int)
  deriving DecidableEq, Repr

/-- R271: the model-level faults. Each ends the run; the instruction that raises it writes nothing (R272).
All are the spec's own, so stopping is safe: the model goes on nowhere the spec does not. -/
inductive Fault where
  /-- No. 1: the word at pc is a reserved encoding (R96, R97). Raised by `step`; safe. -/
  | illegalInstruction (word : InstrWord)
  /-- No. 2: an instruction reads state that holds no value (R44). Raised by every operand read; safe. -/
  | undefRead (what : Item)
  /-- No. 3: VL would become `t < 1`. Raised by SETVL and SETVLI (R110, R111); safe. -/
  | vlRange (t : Int)
  /-- No. 4: VL exceeds the elements per register of the suffix (R32). Raised by every instruction with a
  type suffix; safe. -/
  | vlTooLarge (vl epr : Nat)
  /-- No. 5: VL is no multiple of the segment size (R221). Raised by the segment instructions; safe. -/
  | segVL (vl n : Nat)
  /-- No. 6: an element index outside 0 to VL - 1 (R250). Raised by VPERM, VEXTRACT, VINSERT; safe. -/
  | indexRange (value : Int) (vl : Nat)
  /-- No. 7: an address outside MEM_LO .. MEM_HI - 1 (R51). Raised by loads, stores and the fetch; safe. -/
  | memFault (a : Int)
  /-- No. 8: a store into CODE_LO .. CODE_HI - 1 (R67). Raised by stores; safe. -/
  | codeWrite (a : Int)
  deriving DecidableEq, Repr

/-- Why a step has no meaning in the model. -/
inductive Refusal where
  /-- The instruction has no meaning yet. Raised by a refused arm of `exec`; safe. -/
  | notModelled (mnemonic : String)
  /-- R279: pc = CODE_HI, the normal end of a run, terminal and no fault. Raised by `step`; safe. -/
  | endOfProgram
  /-- R279, R40: pc is no instruction address of the code range, so the launch state was not a legal one.
  Raised by `step`; safe. -/
  | illegalLaunch (pc : Int)
  deriving DecidableEq, Repr

/-- R21, R44: a vector register, 256 pents, each of which may hold no value. -/
abbrev VReg := Vector (Option Pent) 256

/-- R35, R44: a mask register, VLEN = 18 bits, each of which may hold no value. -/
abbrev MReg := Vector (Option Bool) 18

/-- R50: memory as address and pent pairs, addresses strictly rising; an address that is not listed holds
no value (R44). -/
abbrev Memory := List (Int × Pent)

/-- The canonical form of a memory: the addresses rise strictly. Since an unlisted address holds no value,
every entry differs from what an unlisted address reads as. -/
abbrev Memory.wf (m : Memory) : Prop := m.Pairwise fun c d => c.1 < d.1

/-- R20: the architectural state, with the spec's open parameters of the launch (R11) and the model's own
counter of draws. `none` inside a register is the spec's undef (R44). -/
structure State where
  /-- V0 to V31 (R21). -/
  v : Vector VReg 32
  /-- VM0 to VM7 (R35). -/
  vm : Vector MReg 8
  /-- The vector length register (R30). -/
  vl : Option Nat
  /-- The vector type register (R33). -/
  vtype : Option EType
  /-- The scalar registers, SW = 16 pents each (R38). -/
  x : Vector (Option (Pat 16)) 32
  /-- The program counter, an unbounded integer address (R40). -/
  pc : Int
  /-- Memory (R50). -/
  mem : Memory
  /-- The fault record (R46). -/
  fault : Option Fault
  /-- MEM_LO (R51), fixed for a run. -/
  memLo : Int
  /-- MEM_HI (R51), fixed for a run. -/
  memHi : Int
  /-- CODE_LO (R52), fixed for a run. -/
  codeLo : Int
  /-- CODE_HI (R52), fixed for a run. -/
  codeHi : Int
  /-- The model's own: how many draws (R17, R128) have been taken. -/
  draws : Nat
  deriving DecidableEq, Repr

/-- The state after reset. pc, memory and the fault record are R45's; the register values, which R45 does
not give, are DESIGN CHOICE (log entry 1), the four ranges DESIGN CHOICE (log entry 4), the draw counter
DESIGN CHOICE (log entry 7). -/
def State.reset : State where
  v := Vector.replicate 32 (Vector.replicate 256 (some .zero))
  vm := Vector.replicate 8 (Vector.replicate 18 (some false))
  vl := some 1
  vtype := some .p14
  x := Vector.replicate 32 (some (Vector.replicate 16 .zero))
  pc := 90000
  mem := []
  fault := none
  memLo := 0
  memHi := 100000
  codeLo := 90000
  codeHi := 90000
  draws := 0

/-- The launch state that names nothing (R45): every register holds no value, everything else as after
reset. -/
def State.undefLaunch : State :=
  { State.reset with
    v := Vector.replicate 32 (Vector.replicate 256 none)
    vm := Vector.replicate 8 (Vector.replicate 18 none)
    vl := none
    vtype := none
    x := Vector.replicate 32 none }

end Sys2Proof.Machine
end

