-- ==== Sys2Proof/Machine/Ops.lean ====
section
/-! DEFINITION. The named operations over registers and memory, completing an instruction, and the one way
a fault is taken (R17, R20 to R46, R50 to R67, R272). -/

namespace Sys2Proof.Machine

/-! ## Completing an instruction and taking a fault -/

/-- R40: the pc of the next instruction, ILEN = 24 pents on. -/
def State.advance (s : State) : State := { s with pc := s.pc + Config.ilen }

/-- R40, R272: an instruction that completes has its next state with pc advanced; one that raises a fault
ends the run with that fault and writes nothing. -/
def commit (r : Except Fault State) : Host.Outcome State Fault Refusal :=
  match r with
  | .ok t => .next t.advance
  | .error f => .fault f

/-- R46, R272: the state at a fault, the state before the instruction with the fault recorded. -/
def State.recordFault (s : State) (f : Fault) : State := { s with fault := some f }

/-! ## Reading what may hold no value (R44) -/

/-- `len` pents read together: the string of them, or `UndefRead` of the lowest that holds no value. -/
def gather (len : Nat) (f : Nat → Option Pent) (item : Nat → Item) : Except Fault (Pat len) :=
  match (List.range len).find? fun k => (f k).isNone with
  | some k => .error (.undefRead (item k))
  | none => .ok (tabulate len fun k => (f k).getD .zero)

/-! ## Scalar registers (R38, R39) -/

/-- R17 `xraw[r]`. -/
def State.xraw (s : State) (r : XNum) : Except Fault (Pat 16) :=
  match s.x[r] with
  | some p => .ok p
  | none => .error (.undefRead (.x r))

/-- R17 `x[r]`: the integer a scalar register holds. -/
def State.xval (s : State) (r : XNum) : Except Fault Int := do
  let p ← s.xraw r
  return ival p

/-- R17 `xraw[r] <- p`. -/
def State.setX (s : State) (r : XNum) (p : Pat 16) : State := { s with x := s.x.set r (some p) }

/-- R17 `x[r] <- v`: the string of `wrap_SW(v)`, SW = 16. -/
def State.putX (s : State) (r : XNum) (v : Int) : State := s.setX r (strOf 16 v)

/-! ## Vector registers (R21 to R25) -/

/-- Pent `p` of `V[n]`, none where it holds no value. -/
def State.vpent (s : State) (n : VNum) (p : Nat) : Option Pent :=
  match (s.v[n])[p]? with
  | some q => q
  | none => none

/-- R17, R24 `vraw(n, T, i)`: the pents `i*EW + EW - 1` down to `i*EW` of `V[n]`. -/
def State.vraw (s : State) (n : VNum) (t : EType) (i : Nat) : Except Fault (Pat (ew t)) :=
  gather (ew t) (fun k => s.vpent n (i * ew t + k)) fun k => .v n (i * ew t + k)

/-- R17 `ve(n, T, i)`: the integer value of element `i`. -/
def State.ve (s : State) (n : VNum) (t : EType) (i : Nat) : Except Fault Int := do
  let p ← s.vraw n t i
  return ival p

/-- The new value of pent `p` of a register whose elements `i` with `val i = some e` are written under type
`t`; none where the pent is not written. Padding (R25) is never written. -/
def newPent (t : EType) (val : Nat → Option (Pat (ew t))) (p : Nat) : Option Pent :=
  if p / ew t < epr t then
    match val (p / ew t) with
    | some e => e[p % ew t]?
    | none => none
  else none

/-- R17, R25, R29 `vraw(n, T, i) <- e` for every `i` with `val i = some e`; no other pent changes. -/
def State.putElems (s : State) (n : VNum) (t : EType) (val : Nat → Option (Pat (ew t))) : State :=
  { s with
    v := s.v.set n (tabulate 256 fun p =>
      match newPent t val p with
      | some q => some q
      | none => s.vpent n p) }

/-! ## Mask registers (R35, R36) -/

/-- Bit `i` of VMk, none where it holds no value. -/
def State.mbit (s : State) (k : MNum) (i : Nat) : Option Bool :=
  match (s.vm[k])[i]? with
  | some b => b
  | none => none

/-- R17 `vm[k][i]`. -/
def State.readMask (s : State) (k : MNum) (i : Nat) : Except Fault Bool :=
  match s.mbit k i with
  | some b => .ok b
  | none => .error (.undefRead (.vm k i))

/-- R17, R36 `vm[k][i] <- b` for every `i` with `val i = some b`; no other bit changes. -/
def State.putMask (s : State) (k : MNum) (val : Nat → Option Bool) : State :=
  { s with
    vm := s.vm.set k (tabulate 18 fun i =>
      match val i with
      | some b => some b
      | none => s.mbit k i) }

/-! ## Memory (R50 to R57) -/

/-- The pent at address `a`, none where nothing gave it a value (R44). -/
def memLookup : Memory → Int → Option Pent
  | [], _ => none
  | (b, q) :: m, a => if a = b then some q else memLookup m a

/-- One pent written at address `a`, keeping the addresses strictly rising. -/
def memInsert : Memory → Int → Pent → Memory
  | [], a, p => [(a, p)]
  | (b, q) :: m, a, p =>
    if a < b then (a, p) :: (b, q) :: m
    else if a = b then (a, p) :: m
    else (b, q) :: memInsert m a p

/-- R56: the pents of a list written at `a`, `a + 1`, ... in ascending order. -/
def writePents : Memory → Int → List Pent → Memory
  | m, _, [] => m
  | m, a, p :: ps => writePents (memInsert m a p) (a + 1) ps

/-- Read of one memory pent: the view of memory that statements use. -/
def State.memPent (s : State) (a : Int) : Option Pent := memLookup s.mem a

/-- R51: a valid data address. -/
def State.validAddr (s : State) (a : Int) : Bool := decide (s.memLo ≤ a) && decide (a < s.memHi)

/-- R52, R67: an address of the program. -/
def State.inCode (s : State) (a : Int) : Bool := decide (s.codeLo ≤ a) && decide (a < s.codeHi)

/-- The lowest of the addresses `a .. a + len - 1` that `bad` picks out. -/
def lowest (bad : Int → Bool) (a : Int) (len : Nat) : Option Int :=
  ((List.range len).find? fun (k : Nat) => bad (a + (k : Int))).map fun (k : Nat) => a + (k : Int)

/-- R55 `MemReadRaw(a, len)`: `MemFault` before `UndefRead`, each of the lowest offending address. -/
def State.memReadRaw (s : State) (a : Int) (len : Nat) : Except Fault (Pat len) :=
  match lowest (fun b => !s.validAddr b) a len with
  | some b => .error (.memFault b)
  | none => gather len (fun k => s.memPent (a + k)) fun k => .mem (a + k)

/-- R56, R67: what a write of `len` pents at `a` raises. `MemFault` comes before `CodeWrite` where the range holds
both an invalid and a program address: DESIGN CHOICE, since R56, R210 and R273 only list the two (log entry 15). -/
def State.storeFault (s : State) (len : Nat) (a : Int) : Option Fault :=
  match lowest (fun b => !s.validAddr b) a len with
  | some b => some (.memFault b)
  | none => (lowest s.inCode a len).map .codeWrite

/-- R60, R210: strings stored at their addresses in the order of the list, after every range is checked in
that order; a fault of any of them stores nothing. -/
def State.storeElems {len : Nat} (s : State) (ws : List (Int × Pat len)) : Except Fault State :=
  match ws.findSome? fun w => s.storeFault len w.1 with
  | some f => .error f
  | none => .ok { s with mem := ws.foldl (fun m w => writePents m w.1 w.2.toList) s.mem }

end Sys2Proof.Machine
end

