-- ==== Sys2Proof/Machine/Operands.lean ====
section
/-! DEFINITION. The common templates of the instruction families (R120, R151, R200, R210, R231, R250): the
active elements, reading them in ascending order before anything is written (R28), and the operand shapes. -/

namespace Sys2Proof.Machine

/-! ## VL -/

/-- `n = VL`, `UndefRead(VL)` if it holds no value (R44). -/
def State.readVL (s : State) : Except Fault Nat :=
  match s.vl with
  | some n => .ok n
  | none => .error (.undefRead .vl)

/-- R33: VTYPE, `UndefRead(VTYPE)` if it holds no value. -/
def State.readVType (s : State) : Except Fault EType :=
  match s.vtype with
  | some t => .ok t
  | none => .error (.undefRead .vtype)

/-- R32, R120: the number of active elements of an instruction whose suffix is `t`. -/
def activeLen (t : EType) (s : State) : Except Fault Nat := do
  let n ← s.readVL
  if epr t < n then .error (.vlTooLarge n (epr t)) else return n

/-! ## Reading all elements in ascending order (R28, R273) -/

/-- The results of `f` on the numbers of a list in order, or the first fault among them. -/
def collectList {α : Type} (f : Nat → Except Fault α) : List Nat → Except Fault (List α)
  | [] => .ok []
  | i :: is => do
    let a ← f i
    let as ← collectList f is
    return a :: as

/-- `f 0`, ..., `f (n - 1)`, or the fault of the lowest index that raises one. -/
def collect {α : Type} (n : Nat) (f : Nat → Except Fault α) : Except Fault (List α) :=
  collectList f (List.range n)

/-- Elements 0 to n - 1 of `vd` written with `elem 0`, ..., `elem (n - 1)`, all read before any is written. -/
def writeActive (t : EType) (vd : VNum) (n : Nat) (s : State)
    (elem : Nat → Except Fault (Pat (ew t))) : Except Fault State := do
  let ts ← collect n elem
  return s.putElems vd t fun i => ts[i]?

/-! ## Integer operand shapes (R120) -/

/-- `Vd, Vs`: `ve(Vd, t, i) <- g(ve(Vs, t, i))`. -/
def intUnary (t : EType) (g : Int → Int) (vd vs : VNum) (s : State) : Except Fault State := do
  let n ← activeLen t s
  writeActive t vd n s fun i => do
    let a ← s.ve vs t i
    return strOf (ew t) (g a)

/-- `Vd, Vs1, Vs2`: `ve(Vd, t, i) <- g(ve(Vs1, t, i), ve(Vs2, t, i))`. -/
def intBinary (t : EType) (g : Int → Int → Int) (vd vs1 vs2 : VNum) (s : State) : Except Fault State := do
  let n ← activeLen t s
  writeActive t vd n s fun i => do
    let a ← s.ve vs1 t i
    let b ← s.ve vs2 t i
    return strOf (ew t) (g a b)

/-- `Vd, Vs, Rs` under P16: `ve(Vd, P16, i) <- g(ve(Vs, P16, i), x[Rs])`. -/
def intScalar (g : Int → Int → Int) (vd vs : VNum) (rs : XNum) (s : State) : Except Fault State := do
  let n ← activeLen .p16 s
  let c ← s.xval rs
  writeActive .p16 vd n s fun i => do
    let a ← s.ve vs .p16 i
    return strOf (ew .p16) (g a c)

/-- R128, R129, R130: `Vd, Vs1, Vs2` under P16, where a zero second operand gives a draw. The draws of one
execution are indexed from the counter `draws` by element, and the counter moves past them. -/
def intDivide (g : Int → Int → Int) (vd vs1 vs2 : VNum) (s : State) : Except Fault State := do
  let n ← activeLen .p16 s
  let t ← writeActive .p16 vd n s fun i => do
    let a ← s.ve vs1 .p16 i
    let b ← s.ve vs2 .p16 i
    return if b = 0 then Config.draw16 (s.draws + i) else strOf 16 (g a b)
  return { t with draws := s.draws + n }

/-- `Rd, Vs` under P16: `x[Rd] <- g [ve(Vs, P16, 0), ..., ve(Vs, P16, n - 1)]`. -/
def intReduce (g : List Int → Int) (rd : XNum) (vs : VNum) (s : State) : Except Fault State := do
  let n ← activeLen .p16 s
  let as ← collect n fun i => s.ve vs .p16 i
  return s.putX rd (g as)

/-- R136: the largest of a list. -/
def listMax : List Int → Int
  | [] => 0
  | a :: as => as.foldl max a

/-- R137: the least of a list. -/
def listMin : List Int → Int
  | [] => 0
  | a :: as => as.foldl min a

/-! ## Raw operand shapes (R151) -/

/-- `Vd, Vs` on raw strings. -/
def rawUnary (t : EType) (g : Pat (ew t) → Pat (ew t)) (vd vs : VNum) (s : State) : Except Fault State := do
  let n ← activeLen t s
  writeActive t vd n s fun i => do
    let a ← s.vraw vs t i
    return g a

/-- `Vd, Vs1, Vs2` on raw strings. -/
def rawBinary (t : EType) (g : Pat (ew t) → Pat (ew t) → Pat (ew t)) (vd vs1 vs2 : VNum) (s : State) :
    Except Fault State := do
  let n ← activeLen t s
  writeActive t vd n s fun i => do
    let a ← s.vraw vs1 t i
    let b ← s.vraw vs2 t i
    return g a b

/-- `Vd, Vs1, Vs2, Vs3` on raw strings. -/
def rawTernary (t : EType) (g : Pat (ew t) → Pat (ew t) → Pat (ew t) → Pat (ew t))
    (vd vs1 vs2 vs3 : VNum) (s : State) : Except Fault State := do
  let n ← activeLen t s
  writeActive t vd n s fun i => do
    let a ← s.vraw vs1 t i
    let b ← s.vraw vs2 t i
    let c ← s.vraw vs3 t i
    return g a b c

/-- R187: `Vd, Vs, Rs` on raw strings under F16, the second operand the raw string of a scalar register. -/
def rawScalar (g : Pat (ew .f16) → Pat 16 → Pat (ew .f16)) (vd vs : VNum) (rs : XNum) (s : State) :
    Except Fault State := do
  let n ← activeLen .f16 s
  let c ← s.xraw rs
  writeActive .f16 vd n s fun i => do
    let a ← s.vraw vs .f16 i
    return g a c

/-! ## Memory operand shapes (R210) -/

/-- R210: the active length and the base address, in that order. -/
def baseAddr (t : EType) (base : XNum) (s : State) : Except Fault (Nat × Int) := do
  let n ← activeLen t s
  let b ← s.xval base
  return (n, b)

/-- R210, loads: all element reads first, then elements 0 to n - 1 of `vd` written. -/
def loadActive (t : EType) (vd : VNum) (n : Nat) (addr : Nat → Int) (s : State) : Except Fault State :=
  writeActive t vd n s fun i => s.memReadRaw (addr i) (ew t)

/-- R210, stores: all source elements first, then the address checks, then the writes. -/
def storeActive (t : EType) (vs : VNum) (n : Nat) (addr : Nat → Int) (s : State) : Except Fault State := do
  let ws ← collect n fun i => do
    let e ← s.vraw vs t i
    return (addr i, e)
  s.storeElems ws

/-! ## Predication (R231) -/

/-- R231: mask bits 0 to n - 1 of VMk. -/
def maskBits (k : MNum) (n : Nat) (s : State) : Except Fault (List Bool) := collect n fun i => s.readMask k i

/-- R231: `elem i` for the active `i`, nothing read for the others. -/
def collectMasked {α : Type} (n : Nat) (ms : List Bool) (elem : Nat → Except Fault α) :
    Except Fault (List (Option α)) :=
  collect n fun i =>
    if ms.getD i false then do
      let e ← elem i
      return some e
    else .ok none

/-- R231: the active elements of `vd` written, the others unchanged. -/
def writeMasked (t : EType) (vd : VNum) (n : Nat) (ms : List Bool) (s : State)
    (elem : Nat → Except Fault (Pat (ew t))) : Except Fault State := do
  let ts ← collectMasked n ms elem
  return s.putElems vd t fun i => ts.getD i none

end Sys2Proof.Machine
end

