-- ==== Sys2Proof/Machine/Configure.lean ====
section
/-! DEFINITION. Vector configuration: SETVL, SETVLI, VSETTYPE, VGETCFG (40_config.md). -/

namespace Sys2Proof.Machine

/-- R110, R111: `t = min(request, VLMAX(T))`, `VLRange(t)` below 1, else Rd and VL get `t`. -/
def setLength (rd : XNum) (ty : EType) (request : Int) (s : State) : Except Fault State :=
  let t := min request (vlmax ty : Int)
  if t < 1 then .error (.vlRange t) else .ok { s.putX rd t with vl := some t.toNat }

/-- R110 SETVL. -/
def execSetvl (rd rs : XNum) (s : State) : Host.Outcome State Fault Refusal :=
  commit do
    let ty ← s.readVType
    let r ← s.xval rs
    setLength rd ty r s

/-- R111 SETVLI. -/
def execSetvli (rd : XNum) (imm : Int) (s : State) : Host.Outcome State Fault Refusal :=
  commit do
    let ty ← s.readVType
    setLength rd ty imm s

/-- R112 VSETTYPE: VL is not changed. -/
def execVsettype (t : EType) (s : State) : Host.Outcome State Fault Refusal :=
  commit (.ok { s with vtype := some t })

/-- R113 VGETCFG: the type code of VTYPE. -/
def execVgetcfg (rd : XNum) (s : State) : Host.Outcome State Fault Refusal :=
  commit do
    let ty ← s.readVType
    return s.putX rd (tcode ty)

end Sys2Proof.Machine
end

