-- ==== Sys2Proof/Machine/Float.lean ====
section
/-! DEFINITION. Vector floating-point instructions (42_float.md). Every result is the value of a function
of the numerics record (R150), a constant of Config without a body. -/

namespace Sys2Proof.Machine

/-- R152 VFADD.F16. -/
def execVfaddF16 (vd vs1 vs2 : VNum) (s : State) : Host.Outcome State Fault Refusal :=
  commit (rawBinary .f16 Config.fadd16 vd vs1 vs2 s)

/-- R152 VFADD.F28. -/
def execVfaddF28 (vd vs1 vs2 : VNum) (s : State) : Host.Outcome State Fault Refusal :=
  commit (rawBinary .f28 Config.fadd28 vd vs1 vs2 s)

/-- R153 VFSUB.F16. -/
def execVfsubF16 (vd vs1 vs2 : VNum) (s : State) : Host.Outcome State Fault Refusal :=
  commit (rawBinary .f16 Config.fsub16 vd vs1 vs2 s)

/-- R153 VFSUB.F28. -/
def execVfsubF28 (vd vs1 vs2 : VNum) (s : State) : Host.Outcome State Fault Refusal :=
  commit (rawBinary .f28 Config.fsub28 vd vs1 vs2 s)

/-- R154 VFMUL.F16. -/
def execVfmulF16 (vd vs1 vs2 : VNum) (s : State) : Host.Outcome State Fault Refusal :=
  commit (rawBinary .f16 Config.fmul16 vd vs1 vs2 s)

/-- R154 VFMUL.F28. -/
def execVfmulF28 (vd vs1 vs2 : VNum) (s : State) : Host.Outcome State Fault Refusal :=
  commit (rawBinary .f28 Config.fmul28 vd vs1 vs2 s)

/-- R155 VFDIV.F16. -/
def execVfdivF16 (vd vs1 vs2 : VNum) (s : State) : Host.Outcome State Fault Refusal :=
  commit (rawBinary .f16 Config.fdiv16 vd vs1 vs2 s)

/-- R155 VFDIV.F28. -/
def execVfdivF28 (vd vs1 vs2 : VNum) (s : State) : Host.Outcome State Fault Refusal :=
  commit (rawBinary .f28 Config.fdiv28 vd vs1 vs2 s)

/-- R156 VFMADD.F16. -/
def execVfmaddF16 (vd vs1 vs2 vs3 : VNum) (s : State) : Host.Outcome State Fault Refusal :=
  commit (rawTernary .f16 Config.fmadd16 vd vs1 vs2 vs3 s)

/-- R157 VFMSUB.F16. -/
def execVfmsubF16 (vd vs1 vs2 vs3 : VNum) (s : State) : Host.Outcome State Fault Refusal :=
  commit (rawTernary .f16 Config.fmsub16 vd vs1 vs2 vs3 s)

/-- R158 VFNMADD.F16. -/
def execVfnmaddF16 (vd vs1 vs2 vs3 : VNum) (s : State) : Host.Outcome State Fault Refusal :=
  commit (rawTernary .f16 Config.fnmadd16 vd vs1 vs2 vs3 s)

/-- R159 VFSQRT.F16. -/
def execVfsqrtF16 (vd vs : VNum) (s : State) : Host.Outcome State Fault Refusal :=
  commit (rawUnary .f16 Config.fsqrt16 vd vs s)

/-- R160 VFRCP.F16. -/
def execVfrcpF16 (vd vs : VNum) (s : State) : Host.Outcome State Fault Refusal :=
  commit (rawUnary .f16 Config.frcp16 vd vs s)

/-- R161 VFRSQRT.F16. -/
def execVfrsqrtF16 (vd vs : VNum) (s : State) : Host.Outcome State Fault Refusal :=
  commit (rawUnary .f16 Config.frsqrt16 vd vs s)

/-- R162 VFMIN.F16. -/
def execVfminF16 (vd vs1 vs2 : VNum) (s : State) : Host.Outcome State Fault Refusal :=
  commit (rawBinary .f16 Config.fmin16 vd vs1 vs2 s)

/-- R163 VFMAX.F16. -/
def execVfmaxF16 (vd vs1 vs2 : VNum) (s : State) : Host.Outcome State Fault Refusal :=
  commit (rawBinary .f16 Config.fmax16 vd vs1 vs2 s)

/-- R164 VFABS.F16. -/
def execVfabsF16 (vd vs : VNum) (s : State) : Host.Outcome State Fault Refusal :=
  commit (rawUnary .f16 Config.fabs16 vd vs s)

/-- R165 VFNEG.F16. -/
def execVfnegF16 (vd vs : VNum) (s : State) : Host.Outcome State Fault Refusal :=
  commit (rawUnary .f16 Config.fneg16 vd vs s)

end Sys2Proof.Machine
end

