-- ==== Sys2Proof/Machine/Flags.lean ====
section
/-! DEFINITION. The machine has no flags (R37); its only predicate state are the mask registers. This file
holds every computation of mask bits: the comparisons (R145), the mask logic (R242) and the counts. -/

namespace Sys2Proof.Machine

/-- R145: bit `i` of VMk is 1 where the relation holds between the signed values, for the active `i`. -/
def compareInto (rel : Int → Int → Bool) (k : MNum) (vs1 vs2 : VNum) (s : State) : Except Fault State := do
  let n ← activeLen .p16 s
  let bs ← collect n fun i => do
    let a ← s.ve vs1 .p16 i
    let b ← s.ve vs2 .p16 i
    return rel a b
  return s.putMask k fun i => bs[i]?

/-- R242: a logical operation on bits 0 to n - 1 of two masks. -/
def maskBinary (g : Bool → Bool → Bool) (d a b : MNum) (s : State) : Except Fault State := do
  let n ← s.readVL
  let ts ← collect n fun i => do
    let p ← s.readMask a i
    let q ← s.readMask b i
    return g p q
  return s.putMask d fun i => ts[i]?

/-- R240, R242: a logical operation on bits 0 to n - 1 of one mask. -/
def maskUnary (g : Bool → Bool) (d a : MNum) (s : State) : Except Fault State := do
  let n ← s.readVL
  let ts ← collect n fun i => do
    let p ← s.readMask a i
    return g p
  return s.putMask d fun i => ts[i]?

/-- R235, R236, R242: a scalar computed from bits 0 to n - 1 of a mask. -/
def maskReduce (g : List Bool → Int) (rd : XNum) (k : MNum) (s : State) : Except Fault State := do
  let n ← s.readVL
  let bs ← maskBits k n s
  return s.putX rd (g bs)

/-- R235: the number of bits that are 1. -/
def popCount (bs : List Bool) : Int := (bs.count true : Nat)

/-- R236: the least index whose bit is 1, or -1. -/
def firstSet (bs : List Bool) : Int :=
  match bs.findIdx? id with
  | some i => (i : Nat)
  | none => -1

end Sys2Proof.Machine
end

