-- ==== Sys2Proof/Machine/Integer.lean ====
section
/-! DEFINITION. Vector integer instructions (41_integer.md). Results are exact and wrapped when written
(R126). -/

namespace Sys2Proof.Machine

/-- R121 VADD.P16. -/
def execVaddP16 (vd vs1 vs2 : VNum) (s : State) : Host.Outcome State Fault Refusal :=
  commit (intBinary .p16 (fun a b => a + b) vd vs1 vs2 s)

/-- R121 VADD.P28. -/
def execVaddP28 (vd vs1 vs2 : VNum) (s : State) : Host.Outcome State Fault Refusal :=
  commit (intBinary .p28 (fun a b => a + b) vd vs1 vs2 s)

/-- R121 VADD.P14. -/
def execVaddP14 (vd vs1 vs2 : VNum) (s : State) : Host.Outcome State Fault Refusal :=
  commit (intBinary .p14 (fun a b => a + b) vd vs1 vs2 s)

/-- R122 VSUB.P16. -/
def execVsubP16 (vd vs1 vs2 : VNum) (s : State) : Host.Outcome State Fault Refusal :=
  commit (intBinary .p16 (fun a b => a - b) vd vs1 vs2 s)

/-- R122 VSUB.P28. -/
def execVsubP28 (vd vs1 vs2 : VNum) (s : State) : Host.Outcome State Fault Refusal :=
  commit (intBinary .p28 (fun a b => a - b) vd vs1 vs2 s)

/-- R123 VNEG.P16. -/
def execVnegP16 (vd vs : VNum) (s : State) : Host.Outcome State Fault Refusal :=
  commit (intUnary .p16 (fun a => -a) vd vs s)

/-- R124 VMUL.P16: the low 16 pents of each product. -/
def execVmulP16 (vd vs1 vs2 : VNum) (s : State) : Host.Outcome State Fault Refusal :=
  commit (intBinary .p16 (fun a b => a * b) vd vs1 vs2 s)

/-- R125 VWMUL.P16: low halves to Vd1, high halves to Vd2. -/
def execVwmulP16 (vd1 vd2 vs1 vs2 : VNum) (s : State) : Host.Outcome State Fault Refusal :=
  commit do
    let n ← activeLen .p16 s
    let ps ← collect n fun i => do
      let a ← s.ve vs1 .p16 i
      let b ← s.ve vs2 .p16 i
      return a * b
    let lo := fun i => (ps[i]?).map fun p => strOf 16 (wrap 16 p)
    let hi := fun i => (ps[i]?).map fun p => strOf 16 ((p - wrap 16 p) / 5 ^ 16)
    return (s.putElems vd1 .p16 lo).putElems vd2 .p16 hi

/-- R129 VDIV.P16: a zero divisor gives a draw (R128). -/
def execVdivP16 (vd vs1 vs2 : VNum) (s : State) : Host.Outcome State Fault Refusal :=
  commit (intDivide idiv vd vs1 vs2 s)

/-- R130 VMOD.P16: a zero divisor gives a draw (R128). -/
def execVmodP16 (vd vs1 vs2 : VNum) (s : State) : Host.Outcome State Fault Refusal :=
  commit (intDivide imod vd vs1 vs2 s)

/-- R131 VADD.VX.P16. -/
def execVaddVxP16 (vd vs : VNum) (rs : XNum) (s : State) : Host.Outcome State Fault Refusal :=
  commit (intScalar (fun a c => a + c) vd vs rs s)

/-- R132 VADD.VI.P16. -/
def execVaddViP16 (vd vs : VNum) (imm : Int) (s : State) : Host.Outcome State Fault Refusal :=
  commit (intUnary .p16 (fun a => a + imm) vd vs s)

/-- R133 VMUL.VX.P16. -/
def execVmulVxP16 (vd vs : VNum) (rs : XNum) (s : State) : Host.Outcome State Fault Refusal :=
  commit (intScalar (fun a c => a * c) vd vs rs s)

/-- R134 VMUL.VI.P16. -/
def execVmulViP16 (vd vs : VNum) (imm : Int) (s : State) : Host.Outcome State Fault Refusal :=
  commit (intUnary .p16 (fun a => a * imm) vd vs s)

/-- R135 VREDSUM.P16: the exact sum, wrapped once on the write. -/
def execVredsumP16 (rd : XNum) (vs : VNum) (s : State) : Host.Outcome State Fault Refusal :=
  commit (intReduce List.sum rd vs s)

/-- R136 VREDMAX.P16. -/
def execVredmaxP16 (rd : XNum) (vs : VNum) (s : State) : Host.Outcome State Fault Refusal :=
  commit (intReduce listMax rd vs s)

/-- R137 VREDMIN.P16. -/
def execVredminP16 (rd : XNum) (vs : VNum) (s : State) : Host.Outcome State Fault Refusal :=
  commit (intReduce listMin rd vs s)

/-- R138 VDOT.P16: products and their sum exact, one wrap on the write. -/
def execVdotP16 (rd : XNum) (vs1 vs2 : VNum) (s : State) : Host.Outcome State Fault Refusal :=
  commit do
    let n ← activeLen .p16 s
    let ps ← collect n fun i => do
      let a ← s.ve vs1 .p16 i
      let b ← s.ve vs2 .p16 i
      return a * b
    return s.putX rd ps.sum

/-- R139 VMSEQ.P16. -/
def execVmseqP16 (md : MNum) (vs1 vs2 : VNum) (s : State) : Host.Outcome State Fault Refusal :=
  commit (compareInto (fun a b => decide (a = b)) md vs1 vs2 s)

/-- R140 VMSNE.P16. -/
def execVmsneP16 (md : MNum) (vs1 vs2 : VNum) (s : State) : Host.Outcome State Fault Refusal :=
  commit (compareInto (fun a b => decide (a ≠ b)) md vs1 vs2 s)

/-- R141 VMSLT.P16. -/
def execVmsltP16 (md : MNum) (vs1 vs2 : VNum) (s : State) : Host.Outcome State Fault Refusal :=
  commit (compareInto (fun a b => decide (a < b)) md vs1 vs2 s)

/-- R142 VMSLE.P16. -/
def execVmsleP16 (md : MNum) (vs1 vs2 : VNum) (s : State) : Host.Outcome State Fault Refusal :=
  commit (compareInto (fun a b => decide (a ≤ b)) md vs1 vs2 s)

/-- R143 VMSGT.P16. -/
def execVmsgtP16 (md : MNum) (vs1 vs2 : VNum) (s : State) : Host.Outcome State Fault Refusal :=
  commit (compareInto (fun a b => decide (b < a)) md vs1 vs2 s)

/-- R144 VMSGE.P16. -/
def execVmsgeP16 (md : MNum) (vs1 vs2 : VNum) (s : State) : Host.Outcome State Fault Refusal :=
  commit (compareInto (fun a b => decide (b ≤ a)) md vs1 vs2 s)

end Sys2Proof.Machine
end

