-- ==== Sys2Proof/Machine/LoadStore.lean ====
section
/-! DEFINITION. Vector loads and stores (45_memory_ops.md); address computations as in R69. -/

namespace Sys2Proof.Machine

/-- R211: unit-stride load, element `i` at `b + i*EW`. -/
def loadUnit (t : EType) (vd : VNum) (base : XNum) (s : State) : Except Fault State := do
  let (n, b) ← baseAddr t base s
  loadActive t vd n (fun i => b + i * ew t) s

/-- R212: unit-stride store. -/
def storeUnit (t : EType) (vs : VNum) (base : XNum) (s : State) : Except Fault State := do
  let (n, b) ← baseAddr t base s
  storeActive t vs n (fun i => b + i * ew t) s

/-- R221: VL must be a multiple of the number of fields of a structure. -/
def wholeSegments (n fields : Nat) : Except Fault Unit :=
  if n % fields = 0 then .ok () else .error (.segVL n fields)

/-- R217 to R219: segment load, a unit-stride load of whole structures. -/
def loadSegments (fields : Nat) (vd : VNum) (base : XNum) (s : State) : Except Fault State := do
  let (n, b) ← baseAddr .p16 base s
  wholeSegments n fields
  loadActive .p16 vd n (fun i => b + i * 16) s

/-- R211 VLD.P16. -/
def execVldP16 (vd : VNum) (rs : XNum) (s : State) : Host.Outcome State Fault Refusal :=
  commit (loadUnit .p16 vd rs s)

/-- R211 VLD.P28. -/
def execVldP28 (vd : VNum) (rs : XNum) (s : State) : Host.Outcome State Fault Refusal :=
  commit (loadUnit .p28 vd rs s)

/-- R211, R102 VLD.F16. -/
def execVldF16 (vd : VNum) (rs : XNum) (s : State) : Host.Outcome State Fault Refusal :=
  commit (loadUnit .f16 vd rs s)

/-- R212 VST.P16. -/
def execVstP16 (vs : VNum) (rd : XNum) (s : State) : Host.Outcome State Fault Refusal :=
  commit (storeUnit .p16 vs rd s)

/-- R212 VST.P28. -/
def execVstP28 (vs : VNum) (rd : XNum) (s : State) : Host.Outcome State Fault Refusal :=
  commit (storeUnit .p28 vs rd s)

/-- R212, R102 VST.F16. -/
def execVstF16 (vs : VNum) (rd : XNum) (s : State) : Host.Outcome State Fault Refusal :=
  commit (storeUnit .f16 vs rd s)

/-- R213 VLDS.P16: element `i` at `b + i*x[Rt]`, the stride counted in pents. -/
def execVldsP16 (vd : VNum) (rs rt : XNum) (s : State) : Host.Outcome State Fault Refusal :=
  commit do
    let (n, b) ← baseAddr .p16 rs s
    let st ← s.xval rt
    loadActive .p16 vd n (fun i => b + i * st) s

/-- R214 VSTS.P16. -/
def execVstsP16 (vs : VNum) (rd rt : XNum) (s : State) : Host.Outcome State Fault Refusal :=
  commit do
    let (n, b) ← baseAddr .p16 rd s
    let st ← s.xval rt
    storeActive .p16 vs n (fun i => b + i * st) s

/-- R215 VLDI.P16: element `i` at `b + ve(Vi, P16, i)`; all offsets are read before memory. -/
def execVldiP16 (vd : VNum) (rs : XNum) (vi : VNum) (s : State) : Host.Outcome State Fault Refusal :=
  commit do
    let (n, b) ← baseAddr .p16 rs s
    let os ← collect n fun i => s.ve vi .p16 i
    loadActive .p16 vd n (fun i => b + os.getD i 0) s

/-- R216 VSTI.P16: offset and data of each element are read in ascending `i`, then the stores happen. -/
def execVstiP16 (vs : VNum) (rd : XNum) (vi : VNum) (s : State) : Host.Outcome State Fault Refusal :=
  commit do
    let (n, b) ← baseAddr .p16 rd s
    let ws ← collect n fun i => do
      let o ← s.ve vi .p16 i
      let e ← s.vraw vs .p16 i
      return (b + o, e)
    s.storeElems ws

/-- R217 VLSEG2.P16. -/
def execVlseg2P16 (vd : VNum) (rs : XNum) (s : State) : Host.Outcome State Fault Refusal :=
  commit (loadSegments 2 vd rs s)

/-- R218 VLSEG3.P16. -/
def execVlseg3P16 (vd : VNum) (rs : XNum) (s : State) : Host.Outcome State Fault Refusal :=
  commit (loadSegments 3 vd rs s)

/-- R219 VLSEG4.P16. -/
def execVlseg4P16 (vd : VNum) (rs : XNum) (s : State) : Host.Outcome State Fault Refusal :=
  commit (loadSegments 4 vd rs s)

/-- R220 VSSEG2.P16. -/
def execVsseg2P16 (vs : VNum) (rd : XNum) (s : State) : Host.Outcome State Fault Refusal :=
  commit do
    let (n, b) ← baseAddr .p16 rd s
    wholeSegments n 2
    storeActive .p16 vs n (fun i => b + i * 16) s

end Sys2Proof.Machine
end

