-- ==== Sys2Proof/Machine/Masked.lean ====
section
/-! DEFINITION. Predicated instructions and mask manipulation (46_masked.md). -/

namespace Sys2Proof.Machine

/-- R232 VADD.P16.M: only active elements are read and written. -/
def execVaddP16M (vd vs1 vs2 : VNum) (vm : MNum) (s : State) : Host.Outcome State Fault Refusal :=
  commit do
    let n ← activeLen .p16 s
    let ms ← maskBits vm n s
    writeMasked .p16 vd n ms s fun i => do
      let a ← s.ve vs1 .p16 i
      let b ← s.ve vs2 .p16 i
      return strOf (ew .p16) (a + b)

/-- R233 VLD.P16.M: only active elements are loaded; the others leave their addresses untouched. -/
def execVldP16M (vd : VNum) (rs : XNum) (vm : MNum) (s : State) : Host.Outcome State Fault Refusal :=
  commit do
    let (n, b) ← baseAddr .p16 rs s
    let ms ← maskBits vm n s
    writeMasked .p16 vd n ms s fun i => s.memReadRaw (b + i * 16) 16

/-- R234 VST.P16.M: only active elements are stored. -/
def execVstP16M (vs : VNum) (rd : XNum) (vm : MNum) (s : State) : Host.Outcome State Fault Refusal :=
  commit do
    let (n, b) ← baseAddr .p16 rd s
    let ms ← maskBits vm n s
    let ws ← collectMasked n ms fun i => do
      let e ← s.vraw vs .p16 i
      return (b + (i : Int) * 16, e)
    s.storeElems (ws.filterMap id)

/-- R235 VMPOPC. -/
def execVmpopc (rd : XNum) (ma : MNum) (s : State) : Host.Outcome State Fault Refusal :=
  commit (maskReduce popCount rd ma s)

/-- R236 VMFFS. -/
def execVmffs (rd : XNum) (ma : MNum) (s : State) : Host.Outcome State Fault Refusal :=
  commit (maskReduce firstSet rd ma s)

/-- R237 VMAND. -/
def execVmand (md ma mb : MNum) (s : State) : Host.Outcome State Fault Refusal :=
  commit (maskBinary (fun p q => p && q) md ma mb s)

/-- R238 VMOR. -/
def execVmor (md ma mb : MNum) (s : State) : Host.Outcome State Fault Refusal :=
  commit (maskBinary (fun p q => p || q) md ma mb s)

/-- R239 VMXOR. -/
def execVmxor (md ma mb : MNum) (s : State) : Host.Outcome State Fault Refusal :=
  commit (maskBinary (fun p q => p != q) md ma mb s)

/-- R240 VMNOT. -/
def execVmnot (md ma : MNum) (s : State) : Host.Outcome State Fault Refusal :=
  commit (maskUnary (fun p => !p) md ma s)

end Sys2Proof.Machine
end

