-- ==== Sys2Proof/Machine/Matrix.lean ====
section
/-! DEFINITION. Matrix instructions (44_matrix.md). -/

namespace Sys2Proof.Machine

/-- R26: register `V[b + r]` of a group of four with base `b`. -/
def groupReg (b : GNum) (r : Fin 4) : VNum := ⟨b.val + r.val, by omega⟩

/-- R201: the exact dot product of row `r` of the group with elements 0 to n - 1 of Vs. -/
def rowDot (b : GNum) (vs : VNum) (n : Nat) (s : State) (r : Fin 4) : Except Fault Int := do
  let ps ← collect n fun j => do
    let m ← s.ve (groupReg b r) .p16 j
    let a ← s.ve vs .p16 j
    return m * a
  return ps.sum

/-- R201 VMATVEC.P16: elements 0 to 3 of Vd are written whatever VL is. -/
def execVmatvecP16 (vd : VNum) (base : GNum) (vs : VNum) (s : State) : Host.Outcome State Fault Refusal :=
  commit do
    let n ← activeLen .p16 s
    let a0 ← rowDot base vs n s 0
    let a1 ← rowDot base vs n s 1
    let a2 ← rowDot base vs n s 2
    let a3 ← rowDot base vs n s 3
    let acc := [a0, a1, a2, a3]
    return s.putElems vd .p16 fun r => (acc[r]?).map (strOf 16)

/-- R202: the products of element `i` of Vs1 with elements 0 to n - 1 of Vs2. -/
def outerRow (vs1 vs2 : VNum) (n : Nat) (s : State) (i : Nat) : Except Fault (List Int) :=
  collect n fun j => do
    let a ← s.ve vs1 .p16 i
    let b ← s.ve vs2 .p16 j
    return a * b

/-- R202: row `i` of the outer product written to a register. -/
def putRow (s : State) (vd : VNum) (row : List Int) : State :=
  s.putElems vd .p16 fun j => (row[j]?).map (strOf 16)

/-- R202 VOUTER.P16: register `V[b + i]` gets row `i`; elements 0 to 3 of Vs1 are read whatever VL is. -/
def execVouterP16 (base : GNum) (vs1 vs2 : VNum) (s : State) : Host.Outcome State Fault Refusal :=
  commit do
    let n ← activeLen .p16 s
    let r0 ← outerRow vs1 vs2 n s 0
    let r1 ← outerRow vs1 vs2 n s 1
    let r2 ← outerRow vs1 vs2 n s 2
    let r3 ← outerRow vs1 vs2 n s 3
    let s0 := putRow s (groupReg base 0) r0
    let s1 := putRow s0 (groupReg base 1) r1
    let s2 := putRow s1 (groupReg base 2) r2
    return putRow s2 (groupReg base 3) r3

/-- R207 VMMCROSS.P16: one query of the crossbar oracle (R206). -/
def execVmmcrossP16 (vd vs : VNum) (imm : Int) (s : State) : Host.Outcome State Fault Refusal :=
  commit do
    let n ← activeLen .p16 s
    let as ← collect n fun i => s.ve vs .p16 i
    return s.putElems vd .p16 fun i => if i < n then some (strOf 16 (Config.crossbar imm as i)) else none

end Sys2Proof.Machine
end

