-- ==== Sys2Proof/Machine/Neural.lean ====
section
/-! DEFINITION. Neural network instructions (43_neural.md). -/

namespace Sys2Proof.Machine

/-- R180 VRELU.P16. -/
def execVreluP16 (vd vs : VNum) (s : State) : Host.Outcome State Fault Refusal :=
  commit (intUnary .p16 (fun a => max 0 a) vd vs s)

/-- R181 VRELU.F16. -/
def execVreluF16 (vd vs : VNum) (s : State) : Host.Outcome State Fault Refusal :=
  commit (rawUnary .f16 Config.frelu16 vd vs s)

/-- R182 VLRELU.P16: alpha is an integer immediate, the product wraps. -/
def execVlreluP16 (vd vs : VNum) (imm : Int) (s : State) : Host.Outcome State Fault Refusal :=
  commit (intUnary .p16 (fun a => if 0 < a then a else imm * a) vd vs s)

/-- R183 VSIGMOID.F16. -/
def execVsigmoidF16 (vd vs : VNum) (s : State) : Host.Outcome State Fault Refusal :=
  commit (rawUnary .f16 Config.fsigmoid16 vd vs s)

/-- R184 VTANH.F16. -/
def execVtanhF16 (vd vs : VNum) (s : State) : Host.Outcome State Fault Refusal :=
  commit (rawUnary .f16 Config.ftanh16 vd vs s)

/-- R185 VEXP.F16. -/
def execVexpF16 (vd vs : VNum) (s : State) : Host.Outcome State Fault Refusal :=
  commit (rawUnary .f16 Config.fexp16 vd vs s)

/-- R186 VREDSUM.F16: the active elements in ascending index, the result a raw string in `x[Rd]` (R166). -/
def execVredsumF16 (rd : XNum) (vs : VNum) (s : State) : Host.Outcome State Fault Refusal :=
  commit do
    let n ← activeLen .f16 s
    let l ← collect n fun i => s.vraw vs .f16 i
    return s.setX rd (Config.fredsum16 l)

/-- R187 VFDIV.VX.F16: the divisor is the raw string in the scalar register (R166). -/
def execVfdivVxF16 (vd vs : VNum) (rs : XNum) (s : State) : Host.Outcome State Fault Refusal :=
  commit (rawScalar Config.fdiv16 vd vs rs s)

/-- R189, R191: quantisation to the range `-bound .. bound`; with scale 0 every active element is a draw. The
draws of one execution are indexed from the counter `draws` by element. -/
def quantise (bound : Int) (vd vs : VNum) (scale : Int) (s : State) : Except Fault State := do
  let n ← activeLen .p16 s
  let t ← writeActive .p16 vd n s fun i => do
    let a ← s.ve vs .p16 i
    return if scale = 0 then Config.draw16 (s.draws + i) else strOf 16 (clamp (rdiv a scale) (-bound) bound)
  return { t with draws := s.draws + n }

/-- R189 VQUANT5.P16. -/
def execVquant5P16 (vd vs : VNum) (imm : Int) (s : State) : Host.Outcome State Fault Refusal :=
  commit (quantise 2 vd vs imm s)

/-- R190 VDEQUANT5.F16. -/
def execVdequant5F16 (vd vs : VNum) (imm : Int) (s : State) : Host.Outcome State Fault Refusal :=
  commit (rawUnary .f16 (fun a => Config.dequant5 a imm) vd vs s)

/-- R191 VQUANT25.P16. -/
def execVquant25P16 (vd vs : VNum) (imm : Int) (s : State) : Host.Outcome State Fault Refusal :=
  commit (quantise 12 vd vs imm s)

/-- R192: the pooled values, at most as many as the inputs, written to the low elements of Vd. -/
def pool (g : List Int → List Int) (vd vs : VNum) (s : State) : Except Fault State := do
  let n ← activeLen .p16 s
  let as ← collect n fun i => s.ve vs .p16 i
  let r := (g as).take n
  return s.putElems vd .p16 fun k => (r[k]?).map (strOf 16)

/-- R193 VMAXPOOL2.P16. -/
def execVmaxpool2P16 (vd vs : VNum) (s : State) : Host.Outcome State Fault Refusal :=
  commit (pool Config.maxpool2 vd vs s)

/-- R194 VAVGPOOL2.P16. -/
def execVavgpool2P16 (vd vs : VNum) (s : State) : Host.Outcome State Fault Refusal :=
  commit (pool Config.avgpool2 vd vs s)

/-- R195 VGAVGPOOL.P16: the exact sum divided by VL, truncating toward zero. -/
def execVgavgpoolP16 (rd : XNum) (vs : VNum) (s : State) : Host.Outcome State Fault Refusal :=
  commit do
    let n ← activeLen .p16 s
    let as ← collect n fun i => s.ve vs .p16 i
    return s.putX rd (idiv as.sum n)

end Sys2Proof.Machine
end

