-- ==== Sys2Proof/Machine/Permute.lean ====
section
/-! DEFINITION. Permutation, interleave, broadcast, extract and insert (47_permute.md). -/

namespace Sys2Proof.Machine

/-- R250: an element index a program supplies must lie in 0 to n - 1. -/
def checkIndex (j : Int) (n : Nat) : Except Fault Nat :=
  if j < 0 ∨ (n : Int) ≤ j then .error (.indexRange j n) else .ok j.toNat

/-- R251 VPERM.P16: per element, the index is read, checked, and only then the selected element is read. -/
def execVpermP16 (vd vs vi : VNum) (s : State) : Host.Outcome State Fault Refusal :=
  commit do
    let n ← activeLen .p16 s
    writeActive .p16 vd n s fun i => do
      let j ← s.ve vi .p16 i
      let k ← checkIndex j n
      s.vraw vs .p16 k

/-- R252 VREV.P16. -/
def execVrevP16 (vd vs : VNum) (s : State) : Host.Outcome State Fault Refusal :=
  commit do
    let n ← activeLen .p16 s
    writeActive .p16 vd n s fun i => s.vraw vs .p16 (n - 1 - i)

/-- R253 VROT.P16: the element at index `i` moves to `(i + imm) mod n`, so element `k` of Vd is the element
at `(k - imm) mod n`; the elements are read in ascending order. -/
def execVrotP16 (vd vs : VNum) (imm : Int) (s : State) : Host.Outcome State Fault Refusal :=
  commit do
    let n ← activeLen .p16 s
    let ts ← collect n fun i => s.vraw vs .p16 i
    return s.putElems vd .p16 fun k => if k < n then ts[(((k : Int) - imm) % n).toNat]? else none

/-- R254, R255: two sources read element by element, then their entries at `sel1 n j` and `sel2 n j` of a
sequence of 2n written to Vd1 and Vd2. -/
def pairPermute (cat : List (Pat 16 × Pat 16) → List (Pat 16)) (sel1 sel2 : Nat → Nat → Nat)
    (vd1 vd2 vs1 vs2 : VNum) (s : State) : Except Fault State := do
  let n ← activeLen .p16 s
  let ps ← collect n fun k => do
    let a ← s.vraw vs1 .p16 k
    let b ← s.vraw vs2 .p16 k
    return (a, b)
  let s1 := s.putElems vd1 .p16 fun j => if j < n then (cat ps)[sel1 n j]? else none
  return s1.putElems vd2 .p16 fun j => if j < n then (cat ps)[sel2 n j]? else none

/-- R254: `C[2k] = Vs1[k]`, `C[2k+1] = Vs2[k]`. -/
def interleave : List (Pat 16 × Pat 16) → List (Pat 16)
  | [] => []
  | (a, b) :: ps => a :: b :: interleave ps

/-- R255: `C[j] = Vs1[j]`, `C[n + j] = Vs2[j]`. -/
def catenate (ps : List (Pat 16 × Pat 16)) : List (Pat 16) := ps.map Prod.fst ++ ps.map Prod.snd

/-- R254 VZIP.P16: Vd1 gets the first n entries of the interleaved sequence, Vd2 the other n. -/
def execVzipP16 (vd1 vd2 vs1 vs2 : VNum) (s : State) : Host.Outcome State Fault Refusal :=
  commit (pairPermute interleave (fun _ j => j) (fun n j => n + j) vd1 vd2 vs1 vs2 s)

/-- R255 VUNZIP.P16: Vd1 gets the even-numbered entries of the concatenation, Vd2 the odd-numbered. -/
def execVunzipP16 (vd1 vd2 vs1 vs2 : VNum) (s : State) : Host.Outcome State Fault Refusal :=
  commit (pairPermute catenate (fun _ k => 2 * k) (fun _ k => 2 * k + 1) vd1 vd2 vs1 vs2 s)

/-- R256 VBROADCAST.P16. -/
def execVbroadcastP16 (vd : VNum) (rs : XNum) (s : State) : Host.Outcome State Fault Refusal :=
  commit do
    let n ← activeLen .p16 s
    let c ← s.xval rs
    writeActive .p16 vd n s fun _ => .ok (strOf (ew .p16) c)

/-- R257 VEXTRACT.P16: only element `imm` is read. -/
def execVextractP16 (rd : XNum) (vs : VNum) (imm : Int) (s : State) : Host.Outcome State Fault Refusal :=
  commit do
    let n ← activeLen .p16 s
    let k ← checkIndex imm n
    let a ← s.ve vs .p16 k
    return s.putX rd a

/-- R258 VINSERT.P16: the index is checked before the scalar is read; only element `imm` is written. -/
def execVinsertP16 (vd : VNum) (rs : XNum) (imm : Int) (s : State) : Host.Outcome State Fault Refusal :=
  commit do
    let n ← activeLen .p16 s
    let k ← checkIndex imm n
    let c ← s.xval rs
    return s.putElems vd .p16 fun i => if i = k then some (strOf 16 c) else none

end Sys2Proof.Machine
end

