-- ==== Sys2Proof/Machine/Dispatch.lean ====
section
/-! DEFINITION. The meaning of each instruction, one arm per constructor in the table's order. -/

namespace Sys2Proof.Machine

/-- What an instruction does. -/
def exec (i : Instr) (s : State) : Host.Outcome State Fault Refusal :=
  match i with
  | .setvl rd rs => Sys2Proof.Machine.execSetvl rd rs s
  | .setvli rd imm => Sys2Proof.Machine.execSetvli rd imm s
  | .vsettype t => Sys2Proof.Machine.execVsettype t s
  | .vgetcfg rd => Sys2Proof.Machine.execVgetcfg rd s
  | .vaddP16 vd vs1 vs2 => Sys2Proof.Machine.execVaddP16 vd vs1 vs2 s
  | .vaddP28 vd vs1 vs2 => Sys2Proof.Machine.execVaddP28 vd vs1 vs2 s
  | .vaddP14 vd vs1 vs2 => Sys2Proof.Machine.execVaddP14 vd vs1 vs2 s
  | .vsubP16 vd vs1 vs2 => Sys2Proof.Machine.execVsubP16 vd vs1 vs2 s
  | .vsubP28 vd vs1 vs2 => Sys2Proof.Machine.execVsubP28 vd vs1 vs2 s
  | .vnegP16 vd vs => Sys2Proof.Machine.execVnegP16 vd vs s
  | .vmulP16 vd vs1 vs2 => Sys2Proof.Machine.execVmulP16 vd vs1 vs2 s
  | .vwmulP16 vd1 vd2 vs1 vs2 => Sys2Proof.Machine.execVwmulP16 vd1 vd2 vs1 vs2 s
  | .vdivP16 vd vs1 vs2 => Sys2Proof.Machine.execVdivP16 vd vs1 vs2 s
  | .vmodP16 vd vs1 vs2 => Sys2Proof.Machine.execVmodP16 vd vs1 vs2 s
  | .vaddVxP16 vd vs rs => Sys2Proof.Machine.execVaddVxP16 vd vs rs s
  | .vaddViP16 vd vs imm => Sys2Proof.Machine.execVaddViP16 vd vs imm s
  | .vmulVxP16 vd vs rs => Sys2Proof.Machine.execVmulVxP16 vd vs rs s
  | .vmulViP16 vd vs imm => Sys2Proof.Machine.execVmulViP16 vd vs imm s
  | .vredsumP16 rd vs => Sys2Proof.Machine.execVredsumP16 rd vs s
  | .vredmaxP16 rd vs => Sys2Proof.Machine.execVredmaxP16 rd vs s
  | .vredminP16 rd vs => Sys2Proof.Machine.execVredminP16 rd vs s
  | .vdotP16 rd vs1 vs2 => Sys2Proof.Machine.execVdotP16 rd vs1 vs2 s
  | .vmseqP16 md vs1 vs2 => Sys2Proof.Machine.execVmseqP16 md vs1 vs2 s
  | .vmsneP16 md vs1 vs2 => Sys2Proof.Machine.execVmsneP16 md vs1 vs2 s
  | .vmsltP16 md vs1 vs2 => Sys2Proof.Machine.execVmsltP16 md vs1 vs2 s
  | .vmsleP16 md vs1 vs2 => Sys2Proof.Machine.execVmsleP16 md vs1 vs2 s
  | .vmsgtP16 md vs1 vs2 => Sys2Proof.Machine.execVmsgtP16 md vs1 vs2 s
  | .vmsgeP16 md vs1 vs2 => Sys2Proof.Machine.execVmsgeP16 md vs1 vs2 s
  | .vfaddF16 vd vs1 vs2 => Sys2Proof.Machine.execVfaddF16 vd vs1 vs2 s
  | .vfaddF28 vd vs1 vs2 => Sys2Proof.Machine.execVfaddF28 vd vs1 vs2 s
  | .vfsubF16 vd vs1 vs2 => Sys2Proof.Machine.execVfsubF16 vd vs1 vs2 s
  | .vfsubF28 vd vs1 vs2 => Sys2Proof.Machine.execVfsubF28 vd vs1 vs2 s
  | .vfmulF16 vd vs1 vs2 => Sys2Proof.Machine.execVfmulF16 vd vs1 vs2 s
  | .vfmulF28 vd vs1 vs2 => Sys2Proof.Machine.execVfmulF28 vd vs1 vs2 s
  | .vfdivF16 vd vs1 vs2 => Sys2Proof.Machine.execVfdivF16 vd vs1 vs2 s
  | .vfdivF28 vd vs1 vs2 => Sys2Proof.Machine.execVfdivF28 vd vs1 vs2 s
  | .vfmaddF16 vd vs1 vs2 vs3 => Sys2Proof.Machine.execVfmaddF16 vd vs1 vs2 vs3 s
  | .vfmsubF16 vd vs1 vs2 vs3 => Sys2Proof.Machine.execVfmsubF16 vd vs1 vs2 vs3 s
  | .vfnmaddF16 vd vs1 vs2 vs3 => Sys2Proof.Machine.execVfnmaddF16 vd vs1 vs2 vs3 s
  | .vfsqrtF16 vd vs => Sys2Proof.Machine.execVfsqrtF16 vd vs s
  | .vfrcpF16 vd vs => Sys2Proof.Machine.execVfrcpF16 vd vs s
  | .vfrsqrtF16 vd vs => Sys2Proof.Machine.execVfrsqrtF16 vd vs s
  | .vfminF16 vd vs1 vs2 => Sys2Proof.Machine.execVfminF16 vd vs1 vs2 s
  | .vfmaxF16 vd vs1 vs2 => Sys2Proof.Machine.execVfmaxF16 vd vs1 vs2 s
  | .vfabsF16 vd vs => Sys2Proof.Machine.execVfabsF16 vd vs s
  | .vfnegF16 vd vs => Sys2Proof.Machine.execVfnegF16 vd vs s
  | .vreluP16 vd vs => Sys2Proof.Machine.execVreluP16 vd vs s
  | .vreluF16 vd vs => Sys2Proof.Machine.execVreluF16 vd vs s
  | .vlreluP16 vd vs imm => Sys2Proof.Machine.execVlreluP16 vd vs imm s
  | .vsigmoidF16 vd vs => Sys2Proof.Machine.execVsigmoidF16 vd vs s
  | .vtanhF16 vd vs => Sys2Proof.Machine.execVtanhF16 vd vs s
  | .vexpF16 vd vs => Sys2Proof.Machine.execVexpF16 vd vs s
  | .vredsumF16 rd vs => Sys2Proof.Machine.execVredsumF16 rd vs s
  | .vfdivVxF16 vd vs rs => Sys2Proof.Machine.execVfdivVxF16 vd vs rs s
  | .vquant5P16 vd vs imm => Sys2Proof.Machine.execVquant5P16 vd vs imm s
  | .vdequant5F16 vd vs imm => Sys2Proof.Machine.execVdequant5F16 vd vs imm s
  | .vquant25P16 vd vs imm => Sys2Proof.Machine.execVquant25P16 vd vs imm s
  | .vmaxpool2P16 vd vs => Sys2Proof.Machine.execVmaxpool2P16 vd vs s
  | .vavgpool2P16 vd vs => Sys2Proof.Machine.execVavgpool2P16 vd vs s
  | .vgavgpoolP16 rd vs => Sys2Proof.Machine.execVgavgpoolP16 rd vs s
  | .vmatvecP16 vd base vs => Sys2Proof.Machine.execVmatvecP16 vd base vs s
  | .vouterP16 base vs1 vs2 => Sys2Proof.Machine.execVouterP16 base vs1 vs2 s
  | .vmmcrossP16 vd vs imm => Sys2Proof.Machine.execVmmcrossP16 vd vs imm s
  | .vldP16 vd rs => Sys2Proof.Machine.execVldP16 vd rs s
  | .vldP28 vd rs => Sys2Proof.Machine.execVldP28 vd rs s
  | .vldF16 vd rs => Sys2Proof.Machine.execVldF16 vd rs s
  | .vstP16 vs rd => Sys2Proof.Machine.execVstP16 vs rd s
  | .vstP28 vs rd => Sys2Proof.Machine.execVstP28 vs rd s
  | .vstF16 vs rd => Sys2Proof.Machine.execVstF16 vs rd s
  | .vldsP16 vd rs rt => Sys2Proof.Machine.execVldsP16 vd rs rt s
  | .vstsP16 vs rd rt => Sys2Proof.Machine.execVstsP16 vs rd rt s
  | .vldiP16 vd rs vi => Sys2Proof.Machine.execVldiP16 vd rs vi s
  | .vstiP16 vs rd vi => Sys2Proof.Machine.execVstiP16 vs rd vi s
  | .vlseg2P16 vd rs => Sys2Proof.Machine.execVlseg2P16 vd rs s
  | .vlseg3P16 vd rs => Sys2Proof.Machine.execVlseg3P16 vd rs s
  | .vlseg4P16 vd rs => Sys2Proof.Machine.execVlseg4P16 vd rs s
  | .vsseg2P16 vs rd => Sys2Proof.Machine.execVsseg2P16 vs rd s
  | .vaddP16M vd vs1 vs2 vm => Sys2Proof.Machine.execVaddP16M vd vs1 vs2 vm s
  | .vldP16M vd rs vm => Sys2Proof.Machine.execVldP16M vd rs vm s
  | .vstP16M vs rd vm => Sys2Proof.Machine.execVstP16M vs rd vm s
  | .vmpopc rd ma => Sys2Proof.Machine.execVmpopc rd ma s
  | .vmffs rd ma => Sys2Proof.Machine.execVmffs rd ma s
  | .vmand md ma mb => Sys2Proof.Machine.execVmand md ma mb s
  | .vmor md ma mb => Sys2Proof.Machine.execVmor md ma mb s
  | .vmxor md ma mb => Sys2Proof.Machine.execVmxor md ma mb s
  | .vmnot md ma => Sys2Proof.Machine.execVmnot md ma s
  | .vpermP16 vd vs vi => Sys2Proof.Machine.execVpermP16 vd vs vi s
  | .vrevP16 vd vs => Sys2Proof.Machine.execVrevP16 vd vs s
  | .vrotP16 vd vs imm => Sys2Proof.Machine.execVrotP16 vd vs imm s
  | .vzipP16 vd1 vd2 vs1 vs2 => Sys2Proof.Machine.execVzipP16 vd1 vd2 vs1 vs2 s
  | .vunzipP16 vd1 vd2 vs1 vs2 => Sys2Proof.Machine.execVunzipP16 vd1 vd2 vs1 vs2 s
  | .vbroadcastP16 vd rs => Sys2Proof.Machine.execVbroadcastP16 vd rs s
  | .vextractP16 rd vs imm => Sys2Proof.Machine.execVextractP16 rd vs imm s
  | .vinsertP16 vd rs imm => Sys2Proof.Machine.execVinsertP16 vd rs imm s

end Sys2Proof.Machine
end

