-- ==== Sys2Proof/Machine/Fetch.lean ====
section
/-! DEFINITION. Fetching the word at pc and running it (R40, R57, R279). -/

namespace Sys2Proof.Machine

/-- R279, R40: pc is `CODE_LO + 24*k` and the word lies in the program. -/
def State.pcLegal (s : State) : Bool :=
  decide (s.codeLo ≤ s.pc) && decide (s.pc + Config.ilen ≤ s.codeHi)
    && decide ((s.pc - s.codeLo) % Config.ilen = 0)

/-- R57, R279: the 24 pents at pc .. pc + 23, pent `k` of the word at `pc + k`. -/
def State.fetch (s : State) : Except Fault InstrWord := s.memReadRaw s.pc 24

/-- R96, R271, R279: the word's instruction is executed; a reserved encoding raises IllegalInstruction
before any state is read. -/
def runWord (w : InstrWord) (s : State) : Host.Outcome State Fault Refusal :=
  match decode w with
  | .ok i => exec i s
  | .error _ => .fault (.illegalInstruction w)

/-- One instruction of the program: the end of the program, an illegal launch, or fetch, decode and run. -/
def runNext (s : State) : Host.Outcome State Fault Refusal :=
  if s.pc = s.codeHi then .refused .endOfProgram
  else if s.pcLegal then
    match s.fetch with
    | .ok w => runWord w s
    | .error f => .fault f
  else .refused (.illegalLaunch s.pc)

/-- A word loaded as the next instruction: its 24 pents at pc, the program and the valid range reaching over
them, no fault recorded. -/
def State.loadWord (s : State) (w : InstrWord) : State :=
  { s with
    mem := writePents s.mem s.pc w.toList
    fault := none
    memLo := min s.memLo s.pc
    memHi := max s.memHi (s.pc + Config.ilen)
    codeLo := if s.codeLo ≤ s.pc ∧ (s.pc - s.codeLo) % Config.ilen = 0 then s.codeLo else s.pc
    codeHi := max s.codeHi (s.pc + Config.ilen) }

end Sys2Proof.Machine
end

