-- ==== Sys2Proof/Machine/Step.lean ====
section
/-! DEFINITION. One step of the machine (R279), and the placing of a word where the step fetches. -/

namespace Sys2Proof.Machine

/-- R46, R279: no instruction executes once a fault is recorded; otherwise the instruction at pc runs. -/
def step (s : State) : Host.Outcome State Fault Refusal :=
  match s.fault with
  | some f => .fault f
  | none => runNext s

/-- The state in which the next step fetches and runs the opcode table's word `w` of `nbits` bits, numbered
as `decodeTableWord` numbers it. It stands for loading a program (log entry 4). -/
def State.withFetchWord (s : State) (nbits w : Nat) : State := s.loadWord (tableWord nbits w)

end Sys2Proof.Machine
end

