-- ==== Sys2Proof/Safety.lean ====
section
/-! DEFINITION. What claims speak of: the parts of an outcome, the state a faulting step leaves, what a
completed instruction may have changed, what each instruction writes, and legal states. -/

namespace Sys2Proof.Machine

/-! ## Outcomes -/

/-- The next state of an outcome, if it has one. -/
def nextOf (o : Host.Outcome State Fault Refusal) : Option State :=
  match o with
  | .next t => some t
  | _ => none

/-- The fault of an outcome, if it is one. -/
def faultOf (o : Host.Outcome State Fault Refusal) : Option Fault :=
  match o with
  | .fault f => some f
  | _ => none

/-- The refusal of an outcome, if it is one. -/
def refusalOf (o : Host.Outcome State Fault Refusal) : Option Refusal :=
  match o with
  | .refused r => some r
  | _ => none

/-- An outcome with its next state, if it has one, changed by `f`. -/
def mapNext (f : State → State) (o : Host.Outcome State Fault Refusal) : Host.Outcome State Fault Refusal :=
  match o with
  | .next t => .next (f t)
  | .fault e => .fault e
  | .refused r => .refused r

/-- R46, R272: the state after a step: the next state, or the state before it with the fault recorded, or
the same state where the run has ended. -/
def State.after (s : State) : State :=
  match step s with
  | .next t => t
  | .fault f => s.recordFault f
  | .refused _ => s

/-! ## What an instruction may read -/

/-- R32, R120: VL is `n` and a register of type `t` has `n` elements. -/
def Active (s : State) (t : EType) (n : Nat) : Prop := s.vl = some n ∧ n ≤ epr t

/-- Elements 0 to n - 1 of V[r] under type `t` hold the integers `a 0`, ..., `a (n - 1)`. -/
def HoldsInts (s : State) (t : EType) (r : VNum) (n : Nat) (a : Nat → Int) : Prop :=
  ∀ i, i < n → s.ve r t i = .ok (a i)

/-- Elements 0 to n - 1 of V[r] under type `t` hold the strings `a 0`, ..., `a (n - 1)`. -/
def HoldsRaw (s : State) (t : EType) (r : VNum) (n : Nat) (a : Nat → Pat (ew t)) : Prop :=
  ∀ i, i < n → s.vraw r t i = .ok (a i)

/-- Bits 0 to n - 1 of VMk are `b 0`, ..., `b (n - 1)`. -/
def HoldsBits (s : State) (k : MNum) (n : Nat) (b : Nat → Bool) : Prop :=
  ∀ i, i < n → s.mbit k i = some (b i)

/-! ## What a completed instruction may have changed -/

/-- Nothing changed but pc and, in the vector registers of `dst`, the elements `i` under type `t` with
`w i`: no other pent of any vector register (R25, R29), no pent of memory, nothing else. -/
structure OnlyElements (s u : State) (t : EType) (dst : VNum → Prop) (w : Nat → Prop) : Prop where
  vectors : ∀ m p, ¬ dst m ∨ epr t ≤ p / ew t ∨ ¬ w (p / ew t) → u.vpent m p = s.vpent m p
  memory : ∀ a, u.memPent a = s.memPent a
  rest : u = { s with v := u.v, pc := s.pc + 24 }

/-- The elements `i` of V[vd] with `w i` hold the strings `val i`, and nothing else changed but pc. -/
def RawResult (s u : State) (t : EType) (vd : VNum) (w : Nat → Prop) (val : Nat → Pat (ew t)) : Prop :=
  (∀ i, w i → u.vraw vd t i = .ok (val i)) ∧ OnlyElements s u t (· = vd) w

/-- R126: the elements `i` of V[vd] with `w i` hold `val i` wrapped to the element width, and nothing else
changed but pc. -/
def IntResult (s u : State) (t : EType) (vd : VNum) (w : Nat → Prop) (val : Nat → Int) : Prop :=
  (∀ i, w i → u.ve vd t i = .ok (wrap (ew t) (val i))) ∧ OnlyElements s u t (· = vd) w

/-- Nothing changed but pc and scalar register `rd`. -/
structure OnlyScalar (s u : State) (rd : XNum) : Prop where
  scalars : ∀ r, r ≠ rd → u.xraw r = s.xraw r
  memory : ∀ a, u.memPent a = s.memPent a
  rest : u = { s with x := u.x, pc := s.pc + 24 }

/-- R17, R39: scalar register `rd` holds `val` wrapped to 16 pents, and nothing else changed but pc. -/
def ScalarResult (s u : State) (rd : XNum) (val : Int) : Prop :=
  u.xval rd = .ok (wrap 16 val) ∧ OnlyScalar s u rd

/-- R36: bits 0 to n - 1 of VMk are `val 0`, ..., `val (n - 1)`; no other bit of any mask register changed,
no pent of memory, nothing else but pc. -/
structure MaskResult (s u : State) (k : MNum) (n : Nat) (val : Nat → Bool) : Prop where
  written : ∀ i, i < n → u.mbit k i = some (val i)
  masks : ∀ j i, j ≠ k ∨ n ≤ i → u.mbit j i = s.mbit j i
  memory : ∀ a, u.memPent a = s.memPent a
  rest : u = { s with vm := u.vm, pc := s.pc + 24 }

/-- Address `a` is one of the `len` addresses from `base` on. -/
def InRange (base : Int) (len : Nat) (a : Int) : Prop := base ≤ a ∧ a < base + len

/-- R60, R210: the strings `e i` of the `i` with `w i` lie at `addr i`, least significant pent lowest, the
higher-numbered where two overlap; no other pent of memory changed, and nothing else but pc. -/
structure StoreResult (s u : State) (len : Nat) (w : Nat → Prop) (addr : Nat → Int) (e : Nat → Pat len) :
    Prop where
  written : ∀ i k, (hk : k < len) → w i → (∀ j, i < j → w j → ¬ InRange (addr j) len (addr i + k)) →
    u.memPent (addr i + k) = some (e i)[k]
  memory : ∀ a, (∀ i, w i → ¬ InRange (addr i) len a) → u.memPent a = s.memPent a
  rest : u = { s with mem := u.mem, pc := s.pc + 24 }

/-- R51, R67: the `len` pents at `a` may be stored to. -/
def Storable (s : State) (len : Nat) (a : Int) : Prop :=
  ∀ b, InRange a len b → s.memLo ≤ b ∧ b < s.memHi ∧ ¬ (s.codeLo ≤ b ∧ b < s.codeHi)

/-- R51, R55: the `len` pents at `a` are valid and spell `e`. -/
def Spells (s : State) (len : Nat) (a : Int) (e : Pat len) : Prop :=
  ∀ k, (hk : k < len) → s.memLo ≤ a + k ∧ a + k < s.memHi ∧ s.memPent (a + k) = some e[k]

end Sys2Proof.Machine

namespace Sys2Proof

open Sys2Proof.Machine

/-! ## What each instruction writes -/

/-- What an instruction writes. -/
inductive Dest where
  /-- A scalar register and VL (R110, R111). -/
  | length (rd : XNum)
  /-- VTYPE (R112). -/
  | elementType
  /-- Vector registers. -/
  | vectors (ds : List VNum)
  /-- One scalar register. -/
  | scalar (rd : XNum)
  /-- One mask register. -/
  | mask (k : MNum)
  /-- Memory. -/
  | memory
  deriving DecidableEq, Repr

/-- R36, R39, R90: what each instruction writes besides pc. -/
def Instr.dest : Instr → Dest
  | .setvl rd _ => .length rd
  | .setvli rd _ => .length rd
  | .vsettype _ => .elementType
  | .vgetcfg rd => .scalar rd
  | .vaddP16 vd _ _ => .vectors [vd]
  | .vaddP28 vd _ _ => .vectors [vd]
  | .vaddP14 vd _ _ => .vectors [vd]
  | .vsubP16 vd _ _ => .vectors [vd]
  | .vsubP28 vd _ _ => .vectors [vd]
  | .vnegP16 vd _ => .vectors [vd]
  | .vmulP16 vd _ _ => .vectors [vd]
  | .vwmulP16 vd1 vd2 _ _ => .vectors [vd1, vd2]
  | .vdivP16 vd _ _ => .vectors [vd]
  | .vmodP16 vd _ _ => .vectors [vd]
  | .vaddVxP16 vd _ _ => .vectors [vd]
  | .vaddViP16 vd _ _ => .vectors [vd]
  | .vmulVxP16 vd _ _ => .vectors [vd]
  | .vmulViP16 vd _ _ => .vectors [vd]
  | .vredsumP16 rd _ => .scalar rd
  | .vredmaxP16 rd _ => .scalar rd
  | .vredminP16 rd _ => .scalar rd
  | .vdotP16 rd _ _ => .scalar rd
  | .vmseqP16 md _ _ => .mask md
  | .vmsneP16 md _ _ => .mask md
  | .vmsltP16 md _ _ => .mask md
  | .vmsleP16 md _ _ => .mask md
  | .vmsgtP16 md _ _ => .mask md
  | .vmsgeP16 md _ _ => .mask md
  | .vfaddF16 vd _ _ => .vectors [vd]
  | .vfaddF28 vd _ _ => .vectors [vd]
  | .vfsubF16 vd _ _ => .vectors [vd]
  | .vfsubF28 vd _ _ => .vectors [vd]
  | .vfmulF16 vd _ _ => .vectors [vd]
  | .vfmulF28 vd _ _ => .vectors [vd]
  | .vfdivF16 vd _ _ => .vectors [vd]
  | .vfdivF28 vd _ _ => .vectors [vd]
  | .vfmaddF16 vd _ _ _ => .vectors [vd]
  | .vfmsubF16 vd _ _ _ => .vectors [vd]
  | .vfnmaddF16 vd _ _ _ => .vectors [vd]
  | .vfsqrtF16 vd _ => .vectors [vd]
  | .vfrcpF16 vd _ => .vectors [vd]
  | .vfrsqrtF16 vd _ => .vectors [vd]
  | .vfminF16 vd _ _ => .vectors [vd]
  | .vfmaxF16 vd _ _ => .vectors [vd]
  | .vfabsF16 vd _ => .vectors [vd]
  | .vfnegF16 vd _ => .vectors [vd]
  | .vreluP16 vd _ => .vectors [vd]
  | .vreluF16 vd _ => .vectors [vd]
  | .vlreluP16 vd _ _ => .vectors [vd]
  | .vsigmoidF16 vd _ => .vectors [vd]
  | .vtanhF16 vd _ => .vectors [vd]
  | .vexpF16 vd _ => .vectors [vd]
  | .vredsumF16 rd _ => .scalar rd
  | .vfdivVxF16 vd _ _ => .vectors [vd]
  | .vquant5P16 vd _ _ => .vectors [vd]
  | .vdequant5F16 vd _ _ => .vectors [vd]
  | .vquant25P16 vd _ _ => .vectors [vd]
  | .vmaxpool2P16 vd _ => .vectors [vd]
  | .vavgpool2P16 vd _ => .vectors [vd]
  | .vgavgpoolP16 rd _ => .scalar rd
  | .vmatvecP16 vd _ _ => .vectors [vd]
  | .vouterP16 base _ _ => .vectors [groupReg base 0, groupReg base 1, groupReg base 2, groupReg base 3]
  | .vmmcrossP16 vd _ _ => .vectors [vd]
  | .vldP16 vd _ => .vectors [vd]
  | .vldP28 vd _ => .vectors [vd]
  | .vldF16 vd _ => .vectors [vd]
  | .vstP16 _ _ => .memory
  | .vstP28 _ _ => .memory
  | .vstF16 _ _ => .memory
  | .vldsP16 vd _ _ => .vectors [vd]
  | .vstsP16 _ _ _ => .memory
  | .vldiP16 vd _ _ => .vectors [vd]
  | .vstiP16 _ _ _ => .memory
  | .vlseg2P16 vd _ => .vectors [vd]
  | .vlseg3P16 vd _ => .vectors [vd]
  | .vlseg4P16 vd _ => .vectors [vd]
  | .vsseg2P16 _ _ => .memory
  | .vaddP16M vd _ _ _ => .vectors [vd]
  | .vldP16M vd _ _ => .vectors [vd]
  | .vstP16M _ _ _ => .memory
  | .vmpopc rd _ => .scalar rd
  | .vmffs rd _ => .scalar rd
  | .vmand md _ _ => .mask md
  | .vmor md _ _ => .mask md
  | .vmxor md _ _ => .mask md
  | .vmnot md _ => .mask md
  | .vpermP16 vd _ _ => .vectors [vd]
  | .vrevP16 vd _ => .vectors [vd]
  | .vrotP16 vd _ _ => .vectors [vd]
  | .vzipP16 vd1 vd2 _ _ => .vectors [vd1, vd2]
  | .vunzipP16 vd1 vd2 _ _ => .vectors [vd1, vd2]
  | .vbroadcastP16 vd _ => .vectors [vd]
  | .vextractP16 rd _ _ => .scalar rd
  | .vinsertP16 vd _ _ => .vectors [vd]

/-- R88: the element type of the suffix, none for the ten spellings without one. -/
def Instr.suffix : Instr → Option EType
  | .setvl _ _ => none
  | .setvli _ _ => none
  | .vsettype _ => none
  | .vgetcfg _ => none
  | .vaddP16 _ _ _ => some .p16
  | .vaddP28 _ _ _ => some .p28
  | .vaddP14 _ _ _ => some .p14
  | .vsubP16 _ _ _ => some .p16
  | .vsubP28 _ _ _ => some .p28
  | .vnegP16 _ _ => some .p16
  | .vmulP16 _ _ _ => some .p16
  | .vwmulP16 _ _ _ _ => some .p16
  | .vdivP16 _ _ _ => some .p16
  | .vmodP16 _ _ _ => some .p16
  | .vaddVxP16 _ _ _ => some .p16
  | .vaddViP16 _ _ _ => some .p16
  | .vmulVxP16 _ _ _ => some .p16
  | .vmulViP16 _ _ _ => some .p16
  | .vredsumP16 _ _ => some .p16
  | .vredmaxP16 _ _ => some .p16
  | .vredminP16 _ _ => some .p16
  | .vdotP16 _ _ _ => some .p16
  | .vmseqP16 _ _ _ => some .p16
  | .vmsneP16 _ _ _ => some .p16
  | .vmsltP16 _ _ _ => some .p16
  | .vmsleP16 _ _ _ => some .p16
  | .vmsgtP16 _ _ _ => some .p16
  | .vmsgeP16 _ _ _ => some .p16
  | .vfaddF16 _ _ _ => some .f16
  | .vfaddF28 _ _ _ => some .f28
  | .vfsubF16 _ _ _ => some .f16
  | .vfsubF28 _ _ _ => some .f28
  | .vfmulF16 _ _ _ => some .f16
  | .vfmulF28 _ _ _ => some .f28
  | .vfdivF16 _ _ _ => some .f16
  | .vfdivF28 _ _ _ => some .f28
  | .vfmaddF16 _ _ _ _ => some .f16
  | .vfmsubF16 _ _ _ _ => some .f16
  | .vfnmaddF16 _ _ _ _ => some .f16
  | .vfsqrtF16 _ _ => some .f16
  | .vfrcpF16 _ _ => some .f16
  | .vfrsqrtF16 _ _ => some .f16
  | .vfminF16 _ _ _ => some .f16
  | .vfmaxF16 _ _ _ => some .f16
  | .vfabsF16 _ _ => some .f16
  | .vfnegF16 _ _ => some .f16
  | .vreluP16 _ _ => some .p16
  | .vreluF16 _ _ => some .f16
  | .vlreluP16 _ _ _ => some .p16
  | .vsigmoidF16 _ _ => some .f16
  | .vtanhF16 _ _ => some .f16
  | .vexpF16 _ _ => some .f16
  | .vredsumF16 _ _ => some .f16
  | .vfdivVxF16 _ _ _ => some .f16
  | .vquant5P16 _ _ _ => some .p16
  | .vdequant5F16 _ _ _ => some .f16
  | .vquant25P16 _ _ _ => some .p16
  | .vmaxpool2P16 _ _ => some .p16
  | .vavgpool2P16 _ _ => some .p16
  | .vgavgpoolP16 _ _ => some .p16
  | .vmatvecP16 _ _ _ => some .p16
  | .vouterP16 _ _ _ => some .p16
  | .vmmcrossP16 _ _ _ => some .p16
  | .vldP16 _ _ => some .p16
  | .vldP28 _ _ => some .p28
  | .vldF16 _ _ => some .f16
  | .vstP16 _ _ => some .p16
  | .vstP28 _ _ => some .p28
  | .vstF16 _ _ => some .f16
  | .vldsP16 _ _ _ => some .p16
  | .vstsP16 _ _ _ => some .p16
  | .vldiP16 _ _ _ => some .p16
  | .vstiP16 _ _ _ => some .p16
  | .vlseg2P16 _ _ => some .p16
  | .vlseg3P16 _ _ => some .p16
  | .vlseg4P16 _ _ => some .p16
  | .vsseg2P16 _ _ => some .p16
  | .vaddP16M _ _ _ _ => some .p16
  | .vldP16M _ _ _ => some .p16
  | .vstP16M _ _ _ => some .p16
  | .vmpopc _ _ => none
  | .vmffs _ _ => none
  | .vmand _ _ _ => none
  | .vmor _ _ _ => none
  | .vmxor _ _ _ => none
  | .vmnot _ _ => none
  | .vpermP16 _ _ _ => some .p16
  | .vrevP16 _ _ => some .p16
  | .vrotP16 _ _ _ => some .p16
  | .vzipP16 _ _ _ _ => some .p16
  | .vunzipP16 _ _ _ _ => some .p16
  | .vbroadcastP16 _ _ => some .p16
  | .vextractP16 _ _ _ => some .p16
  | .vinsertP16 _ _ _ => some .p16

/-- R30: the four instructions that do not read VL. -/
def Instr.isConfig (i : Instr) : Bool :=
  match i.dest with
  | .length _ => true
  | .elementType => true
  | .scalar rd => decide (i = .vgetcfg rd)
  | _ => false

namespace Machine

/-- What an instruction that writes `d` may change between `s` and `u`: its destination and pc, and the
model's own count of draws where the destination is a vector register. -/
def FrameOf (d : Dest) (s u : State) : Prop :=
  match d with
  | .length rd =>
    (∀ r, r ≠ rd → u.xraw r = s.xraw r) ∧ u = { s with x := u.x, vl := u.vl, pc := s.pc + 24 }
  | .elementType => u = { s with vtype := u.vtype, pc := s.pc + 24 }
  | .vectors ds =>
    (∀ m p, m ∉ ds → u.vpent m p = s.vpent m p) ∧
      u = { s with v := u.v, draws := u.draws, pc := s.pc + 24 }
  | .scalar rd => (∀ r, r ≠ rd → u.xraw r = s.xraw r) ∧ u = { s with x := u.x, pc := s.pc + 24 }
  | .mask k => (∀ j i, j ≠ k → u.mbit j i = s.mbit j i) ∧ u = { s with vm := u.vm, pc := s.pc + 24 }
  | .memory =>
    (∀ a, (a < s.memLo ∨ s.memHi ≤ a) ∨ (s.codeLo ≤ a ∧ a < s.codeHi) → u.memPent a = s.memPent a) ∧
      u = { s with mem := u.mem, pc := s.pc + 24 }

/-! ## Legal states -/

/-- What every state of a run satisfies: no fault recorded, memory in its canonical form and inside the valid
range, VL in 1 to 18 where it holds a value (R30, R31), the program inside the valid range, a whole number of
words and without undef (R52, R279), pc at an instruction of it or at its end (R279). -/
structure Legal (s : State) : Prop where
  noFault : s.fault = none
  memory : Memory.wf s.mem
  memoryInRange : ∀ a p, s.memPent a = some p → s.memLo ≤ a ∧ a < s.memHi
  length : ∀ n, s.vl = some n → 1 ≤ n ∧ n ≤ 18
  codeInRange : s.memLo ≤ s.codeLo ∧ s.codeHi ≤ s.memHi
  codeWords : (s.codeHi - s.codeLo) % 24 = 0
  codeDefined : ∀ a, s.codeLo ≤ a → a < s.codeHi → (s.memPent a).isSome
  pcInCode : s.codeLo ≤ s.pc ∧ s.pc ≤ s.codeHi
  pcWords : (s.pc - s.codeLo) % 24 = 0

/-- Every item that holds a value in `s` holds one in `u`. -/
structure KeepsDefined (s u : State) : Prop where
  vectors : ∀ m p, (s.vpent m p).isSome → (u.vpent m p).isSome
  masks : ∀ k i, (s.mbit k i).isSome → (u.mbit k i).isSome
  scalars : ∀ r : XNum, (s.x[r]).isSome → (u.x[r]).isSome
  length : s.vl.isSome → u.vl.isSome
  elementType : s.vtype.isSome → u.vtype.isSome
  memory : ∀ a, (s.memPent a).isSome → (u.memPent a).isSome

end Machine

namespace Machine

/-! ## The shapes of rules

Each says, for an instruction `mk` of one operand shape, that it completes whenever its operands can be read,
and what it leaves. `vd` may be any of the sources (R28). -/

/-- `Vd, Vs` on integers. -/
def IntUnaryRule (mk : VNum → VNum → Instr) (t : EType) (g : Int → Int) : Prop :=
  ∀ (s : State) (vd vs : VNum) (n : Nat) (a : Nat → Int), Active s t n → HoldsInts s t vs n a →
    ∃ u, exec (mk vd vs) s = .next u ∧ IntResult s u t vd (· < n) fun i => g (a i)

/-- `Vd, Vs1, Vs2` on integers. -/
def IntBinaryRule (mk : VNum → VNum → VNum → Instr) (t : EType) (g : Int → Int → Int) : Prop :=
  ∀ (s : State) (vd vs1 vs2 : VNum) (n : Nat) (a b : Nat → Int), Active s t n → HoldsInts s t vs1 n a →
    HoldsInts s t vs2 n b → ∃ u, exec (mk vd vs1 vs2) s = .next u ∧ IntResult s u t vd (· < n) fun i => g (a i) (b i)

/-- `Vd, Vs, Rs` on integers under P16. -/
def IntScalarRule (mk : VNum → VNum → XNum → Instr) (g : Int → Int → Int) : Prop :=
  ∀ (s : State) (vd vs : VNum) (rs : XNum) (n : Nat) (a : Nat → Int) (c : Int), Active s .p16 n →
    HoldsInts s .p16 vs n a → s.xval rs = .ok c →
    ∃ u, exec (mk vd vs rs) s = .next u ∧ IntResult s u .p16 vd (· < n) fun i => g (a i) c

/-- `Vd, Vs1, Vs2` of a division under P16: the exact result where the divisor is not 0; where it is 0 some
value of the element type, of which nothing more is said (R128). -/
def DivisionRule (mk : VNum → VNum → VNum → Instr) (g : Int → Int → Int) : Prop :=
  ∀ (s : State) (vd vs1 vs2 : VNum) (n : Nat) (a b : Nat → Int), Active s .p16 n → HoldsInts s .p16 vs1 n a →
    HoldsInts s .p16 vs2 n b →
    ∃ u, exec (mk vd vs1 vs2) s = .next u ∧ (∀ i, i < n → b i ≠ 0 → u.ve vd .p16 i = .ok (g (a i) (b i))) ∧
      (∀ i, i < n → ∃ z, u.ve vd .p16 i = .ok z ∧ -half 16 ≤ z ∧ z ≤ half 16) ∧
      OnlyElements s { u with draws := s.draws } .p16 (· = vd) (· < n)

/-- `Vd, Vs, scale` of a quantisation to `-bound .. bound`: clamped rounding division where the scale is not 0;
where it is 0 some value of the element type (R189). -/
def QuantiseRule (mk : VNum → VNum → Int → Instr) (bound : Int) : Prop :=
  ∀ (s : State) (vd vs : VNum) (scale : Int) (n : Nat) (a : Nat → Int), Active s .p16 n → HoldsInts s .p16 vs n a →
    ∃ u, exec (mk vd vs scale) s = .next u ∧
      (scale ≠ 0 → ∀ i, i < n → u.ve vd .p16 i = .ok (min (max (rdiv (a i) scale) (-bound)) bound)) ∧
      (∀ i, i < n → ∃ z, u.ve vd .p16 i = .ok z ∧ -half 16 ≤ z ∧ z ≤ half 16) ∧
      OnlyElements s { u with draws := s.draws } .p16 (· = vd) (· < n)

/-- `Vm, Vs1, Vs2` of a comparison. -/
def CompareRule (mk : MNum → VNum → VNum → Instr) (rel : Int → Int → Prop) : Prop :=
  ∀ (s : State) (md : MNum) (vs1 vs2 : VNum) (n : Nat) (a b : Nat → Int), Active s .p16 n →
    HoldsInts s .p16 vs1 n a → HoldsInts s .p16 vs2 n b →
    ∃ u bit, exec (mk md vs1 vs2) s = .next u ∧ (∀ i, i < n → (bit i = true ↔ rel (a i) (b i))) ∧
      MaskResult s u md n bit

/-- `Vd, Vs` on raw strings. -/
def RawUnaryRule (mk : VNum → VNum → Instr) (t : EType) (g : Pat (ew t) → Pat (ew t)) : Prop :=
  ∀ (s : State) (vd vs : VNum) (n : Nat) (a : Nat → Pat (ew t)), Active s t n → HoldsRaw s t vs n a →
    ∃ u, exec (mk vd vs) s = .next u ∧ RawResult s u t vd (· < n) fun i => g (a i)

/-- `Vd, Vs1, Vs2` on raw strings. -/
def RawBinaryRule (mk : VNum → VNum → VNum → Instr) (t : EType) (g : Pat (ew t) → Pat (ew t) → Pat (ew t)) : Prop :=
  ∀ (s : State) (vd vs1 vs2 : VNum) (n : Nat) (a b : Nat → Pat (ew t)), Active s t n → HoldsRaw s t vs1 n a →
    HoldsRaw s t vs2 n b → ∃ u, exec (mk vd vs1 vs2) s = .next u ∧ RawResult s u t vd (· < n) fun i => g (a i) (b i)

/-- `Vd, Vs1, Vs2, Vs3` on raw strings under F16. -/
def RawTernaryRule (mk : VNum → VNum → VNum → VNum → Instr) (g : Pat 16 → Pat 16 → Pat 16 → Pat 16) : Prop :=
  ∀ (s : State) (vd vs1 vs2 vs3 : VNum) (n : Nat) (a b c : Nat → Pat 16), Active s .f16 n →
    HoldsRaw s .f16 vs1 n a → HoldsRaw s .f16 vs2 n b → HoldsRaw s .f16 vs3 n c →
    ∃ u, exec (mk vd vs1 vs2 vs3) s = .next u ∧ RawResult s u .f16 vd (· < n) fun i => g (a i) (b i) (c i)

/-- `Vd, Vs` of a pooling instruction: at most `n` results, written to the low elements (R192). -/
def PoolRule (mk : VNum → VNum → Instr) (g : List Int → List Int) : Prop :=
  ∀ (s : State) (vd vs : VNum) (n : Nat) (a : Nat → Int), Active s .p16 n → HoldsInts s .p16 vs n a →
    ∃ u, exec (mk vd vs) s = .next u ∧
      IntResult s u .p16 vd (· < min n (g ((List.range n).map a)).length) fun k => (g ((List.range n).map a)).getD k 0

/-- `Vd, (Rs)`: a unit-stride load whose VL is a multiple of `fields` (R211, R217 to R219). -/
def UnitLoadRule (mk : VNum → XNum → Instr) (t : EType) (fields : Nat) : Prop :=
  ∀ (s : State) (vd : VNum) (rs : XNum) (n : Nat) (b : Int) (e : Nat → Pat (ew t)), Active s t n →
    s.xval rs = .ok b → n % fields = 0 → (∀ i : Nat, i < n → Spells s (ew t) (b + i * ew t) (e i)) →
    ∃ u, exec (mk vd rs) s = .next u ∧ RawResult s u t vd (· < n) e

/-- `Vs, (Rd)`: a unit-stride store whose VL is a multiple of `fields` (R212, R220). -/
def UnitStoreRule (mk : VNum → XNum → Instr) (t : EType) (fields : Nat) : Prop :=
  ∀ (s : State) (vs : VNum) (rd : XNum) (n : Nat) (b : Int) (e : Nat → Pat (ew t)), Active s t n →
    s.xval rd = .ok b → n % fields = 0 → HoldsRaw s t vs n e →
    (∀ i : Nat, i < n → Storable s (ew t) (b + i * ew t)) →
    ∃ u, exec (mk vs rd) s = .next u ∧ StoreResult s u (ew t) (· < n) (fun i => b + i * ew t) e

/-- Masks `Vd, Vs1, Vs2`. -/
def MaskBinaryRule (mk : MNum → MNum → MNum → Instr) (g : Bool → Bool → Bool) : Prop :=
  ∀ (s : State) (md ma mb : MNum) (n : Nat) (p q : Nat → Bool), s.vl = some n → HoldsBits s ma n p →
    HoldsBits s mb n q → ∃ u, exec (mk md ma mb) s = .next u ∧ MaskResult s u md n fun i => g (p i) (q i)

/-- Pent `p` of V[r] is the lowest of element `i` under type `t` that holds no value. -/
def FirstUndef (s : State) (t : EType) (r : VNum) (i : Nat) (p : Nat) : Prop :=
  p < ew t ∧ s.vpent r (i * ew t + p) = none ∧ ∀ q, q < p → (s.vpent r (i * ew t + q)).isSome

/-- R44, R273: the lowest element that cannot be read names the fault, Vs1 before Vs2. -/
def UndefBinaryRule (mk : VNum → VNum → VNum → Instr) (t : EType) : Prop :=
  ∀ (s : State) (vd vs1 vs2 : VNum) (n i p : Nat) (a b : Nat → Int), Active s t n → i < n →
    HoldsInts s t vs1 i a → HoldsInts s t vs2 i b →
    (FirstUndef s t vs1 i p → exec (mk vd vs1 vs2) s = .fault (.undefRead (.v vs1 (i * ew t + p)))) ∧
      (∀ c, s.ve vs1 t i = .ok c → FirstUndef s t vs2 i p →
        exec (mk vd vs1 vs2) s = .fault (.undefRead (.v vs2 (i * ew t + p))))

/-- R210: a unit-stride load names the lowest address of the lowest element that cannot be read, MemFault
before UndefRead (R55). -/
def UnitLoadFaultRule (mk : VNum → XNum → Instr) (t : EType) : Prop :=
  ∀ (s : State) (vd : VNum) (rs : XNum) (n i : Nat) (b x : Int), Active s t n → s.xval rs = .ok b → i < n →
    (∀ j : Nat, j < i → ∃ e, Spells s (ew t) (b + j * ew t) e) → InRange (b + i * ew t) (ew t) x →
    (((x < s.memLo ∨ s.memHi ≤ x) ∧ (∀ c, b + i * ew t ≤ c → c < x → s.memLo ≤ c ∧ c < s.memHi) →
        exec (mk vd rs) s = .fault (.memFault x)) ∧
      (s.memPent x = none ∧ (∀ c, b + i * ew t ≤ c → c < x → (s.memPent c).isSome) ∧
          (∀ c, InRange (b + i * ew t) (ew t) c → s.memLo ≤ c ∧ c < s.memHi) →
        exec (mk vd rs) s = .fault (.undefRead (.mem x))))

/-- R210: a unit-stride store names the lowest address of the lowest element that may not be stored to; that
MemFault comes before CodeWrite within one element is the model's choice (log entry 15). -/
def UnitStoreFaultRule (mk : VNum → XNum → Instr) (t : EType) : Prop :=
  ∀ (s : State) (vs : VNum) (rd : XNum) (n i : Nat) (b x : Int) (e : Nat → Pat (ew t)), Active s t n →
    s.xval rd = .ok b → HoldsRaw s t vs n e → i < n → (∀ j : Nat, j < i → Storable s (ew t) (b + j * ew t)) →
    InRange (b + i * ew t) (ew t) x →
    (((x < s.memLo ∨ s.memHi ≤ x) ∧ (∀ c, b + i * ew t ≤ c → c < x → s.memLo ≤ c ∧ c < s.memHi) →
        exec (mk vs rd) s = .fault (.memFault x)) ∧
      ((s.codeLo ≤ x ∧ x < s.codeHi) ∧ (∀ c, b + i * ew t ≤ c → c < x → ¬ (s.codeLo ≤ c ∧ c < s.codeHi)) ∧
          (∀ c, InRange (b + i * ew t) (ew t) c → s.memLo ≤ c ∧ c < s.memHi) →
        exec (mk vs rd) s = .fault (.codeWrite x)))

end Machine

/-- A word written as the spec prints it: 24 codes, pent 23 first, as the digits of one decimal number (R81). -/
def wordOfCodes (n : Nat) : InstrWord := tabulate 24 fun k => Pent.ofCode (n / 10 ^ k % 10)

end Sys2Proof
end

