-- ==== Sys2Proof/Certificates/Slice0/Obligations.lean ====
section
/-! DEFINITION. The statements for the provers. The shapes of rules they share are in Safety.lean. -/

open Sys2Proof Sys2Proof.Machine

/-! ## Configuration (40_config.md) -/

/-- R110, R111: with VTYPE `ty` and a request of at least 1, Rd and VL get the lesser of the request and
VLMAX(ty), and nothing else changes but pc; a request below 1 raises VLRange. -/
def Obligations.SetLengthResults : Prop :=
  ∀ (s : State) (rd rs : XNum) (imm c : Int) (ty : EType), s.vtype = some ty →
    (s.xval rs = .ok c → 1 ≤ c →
      ∃ u, exec (.setvl rd rs) s = .next u ∧ u.vl = some (min c (vlmax ty)).toNat ∧
        u.xval rd = .ok (min c (vlmax ty)) ∧ (∀ r, r ≠ rd → u.xraw r = s.xraw r) ∧
        (∀ a, u.memPent a = s.memPent a) ∧ u = { s with x := u.x, vl := u.vl, pc := s.pc + 24 }) ∧
    (s.xval rs = .ok c → c < 1 → exec (.setvl rd rs) s = .fault (.vlRange c)) ∧
    (1 ≤ imm →
      ∃ u, exec (.setvli rd imm) s = .next u ∧ u.vl = some (min imm (vlmax ty)).toNat ∧
        u.xval rd = .ok (min imm (vlmax ty)) ∧ (∀ r, r ≠ rd → u.xraw r = s.xraw r) ∧
        (∀ a, u.memPent a = s.memPent a) ∧ u = { s with x := u.x, vl := u.vl, pc := s.pc + 24 }) ∧
    (imm < 1 → exec (.setvli rd imm) s = .fault (.vlRange imm))

/-- R112, R113: VSETTYPE writes VTYPE and nothing else, not VL; VGETCFG gives the type code of VTYPE. -/
def Obligations.TypeSetAndRead : Prop :=
  (∀ (s : State) (t : EType), ∃ u, exec (.vsettype t) s = .next u ∧ u.vtype = some t ∧
      (∀ a, u.memPent a = s.memPent a) ∧ u = { s with vtype := u.vtype, pc := s.pc + 24 }) ∧
  (∀ (s : State) (rd : XNum) (ty : EType), s.vtype = some ty →
      ∃ u, exec (.vgetcfg rd) s = .next u ∧ u.xval rd = .ok (tcode ty) ∧ OnlyScalar s u rd)

/-- R110, R111, R113: SETVL, SETVLI and VGETCFG read VTYPE. -/
def Obligations.UndefinedTypeFaults : Prop :=
  ∀ (s : State) (rd rs : XNum) (imm : Int), s.vtype = none →
    exec (.setvl rd rs) s = .fault (.undefRead .vtype) ∧ exec (.setvli rd imm) s = .fault (.undefRead .vtype) ∧
      exec (.vgetcfg rd) s = .fault (.undefRead .vtype)

/-! ## Integer (41_integer.md) -/

/-- R121, R122, R124: VADD, VSUB and VMUL, exact and wrapped (R126). -/
def Obligations.IntegerAddSubtractMultiply : Prop :=
  IntBinaryRule .vaddP16 .p16 (fun a b => a + b) ∧ IntBinaryRule .vaddP28 .p28 (fun a b => a + b) ∧
    IntBinaryRule .vaddP14 .p14 (fun a b => a + b) ∧ IntBinaryRule .vsubP16 .p16 (fun a b => a - b) ∧
    IntBinaryRule .vsubP28 .p28 (fun a b => a - b) ∧ IntBinaryRule .vmulP16 .p16 (fun a b => a * b)

/-- R123, R180: VNEG and VRELU.P16; R132, R134, R182: VADD.VI, VMUL.VI and VLRELU with any immediate. -/
def Obligations.IntegerNegateReluImmediate : Prop :=
  IntUnaryRule .vnegP16 .p16 (fun a => -a) ∧ IntUnaryRule .vreluP16 .p16 (fun a => max 0 a) ∧
    ∀ imm : Int,
      IntUnaryRule (fun vd vs => .vaddViP16 vd vs imm) .p16 (fun a => a + imm) ∧
      IntUnaryRule (fun vd vs => .vmulViP16 vd vs imm) .p16 (fun a => a * imm) ∧
      IntUnaryRule (fun vd vs => .vlreluP16 vd vs imm) .p16 (fun a => if a > 0 then a else imm * a)

/-- R131, R133: VADD.VX and VMUL.VX. -/
def Obligations.IntegerWithScalar : Prop :=
  IntScalarRule .vaddVxP16 (fun a c => a + c) ∧ IntScalarRule .vmulVxP16 (fun a c => a * c)

/-- R125: VWMUL leaves the low 16 pents of each product in Vd1 and the high 16 in Vd2, so that the two halves
give the product exactly; no other pent of a vector register changes. -/
def Obligations.WideningMultiplyIsExact : Prop :=
  ∀ (s : State) (vd1 vd2 vs1 vs2 : VNum) (n : Nat) (a b : Nat → Int), vd1 ≠ vd2 → Active s .p16 n →
    HoldsInts s .p16 vs1 n a → HoldsInts s .p16 vs2 n b →
    ∃ u, exec (.vwmulP16 vd1 vd2 vs1 vs2) s = .next u ∧
      (∀ i, i < n → ∃ lo hi, u.ve vd1 .p16 i = .ok lo ∧ u.ve vd2 .p16 i = .ok hi ∧
        lo = wrap 16 (a i * b i) ∧ a i * b i = hi * 5 ^ 16 + lo) ∧
      OnlyElements s u .p16 (fun m => m = vd1 ∨ m = vd2) (· < n)

/-- R128, R129, R130: VDIV and VMOD; a zero divisor gives some value of the element type and no fault. -/
def Obligations.DivisionAndRemainder : Prop := DivisionRule .vdivP16 idiv ∧ DivisionRule .vmodP16 imod

/-- R135 to R138, R195: the reductions to a scalar register. VREDMAX and VREDMIN give an element that no
other exceeds, or that exceeds no other. -/
def Obligations.ReductionsToScalar : Prop :=
  ∀ (s : State) (rd : XNum) (vs vs2 : VNum) (n : Nat) (a b : Nat → Int), Active s .p16 n → 1 ≤ n →
    HoldsInts s .p16 vs n a →
    (∃ u, exec (.vredsumP16 rd vs) s = .next u ∧ ScalarResult s u rd ((List.range n).map a).sum) ∧
    (∃ u j, exec (.vredmaxP16 rd vs) s = .next u ∧ j < n ∧ (∀ i, i < n → a i ≤ a j) ∧
      u.xval rd = .ok (a j) ∧ OnlyScalar s u rd) ∧
    (∃ u j, exec (.vredminP16 rd vs) s = .next u ∧ j < n ∧ (∀ i, i < n → a j ≤ a i) ∧
      u.xval rd = .ok (a j) ∧ OnlyScalar s u rd) ∧
    (∃ u, exec (.vgavgpoolP16 rd vs) s = .next u ∧ u.xval rd = .ok (idiv ((List.range n).map a).sum n) ∧
      OnlyScalar s u rd) ∧
    (HoldsInts s .p16 vs2 n b → ∃ u, exec (.vdotP16 rd vs vs2) s = .next u ∧
      ScalarResult s u rd ((List.range n).map fun i => a i * b i).sum)

/-- R139 to R145: the six comparisons of signed values. -/
def Obligations.ComparisonsSetMaskBits : Prop :=
  CompareRule .vmseqP16 (fun a b => a = b) ∧ CompareRule .vmsneP16 (fun a b => a ≠ b) ∧
    CompareRule .vmsltP16 (fun a b => a < b) ∧ CompareRule .vmsleP16 (fun a b => a ≤ b) ∧
    CompareRule .vmsgtP16 (fun a b => a > b) ∧ CompareRule .vmsgeP16 (fun a b => a ≥ b)

/-! ## Floating point (42_float.md) and the float instructions of 43_neural.md -/

/-- R152 to R165, R181, R183 to R185, R190: element by element, the function of the numerics record, whatever
that function is. -/
def Obligations.FloatElementwise : Prop :=
  (RawBinaryRule .vfaddF16 .f16 Config.fadd16 ∧ RawBinaryRule .vfsubF16 .f16 Config.fsub16 ∧
    RawBinaryRule .vfmulF16 .f16 Config.fmul16 ∧ RawBinaryRule .vfdivF16 .f16 Config.fdiv16 ∧
    RawBinaryRule .vfminF16 .f16 Config.fmin16 ∧ RawBinaryRule .vfmaxF16 .f16 Config.fmax16) ∧
  (RawBinaryRule .vfaddF28 .f28 Config.fadd28 ∧ RawBinaryRule .vfsubF28 .f28 Config.fsub28 ∧
    RawBinaryRule .vfmulF28 .f28 Config.fmul28 ∧ RawBinaryRule .vfdivF28 .f28 Config.fdiv28) ∧
  (RawTernaryRule .vfmaddF16 Config.fmadd16 ∧ RawTernaryRule .vfmsubF16 Config.fmsub16 ∧
    RawTernaryRule .vfnmaddF16 Config.fnmadd16) ∧
  (RawUnaryRule .vfsqrtF16 .f16 Config.fsqrt16 ∧ RawUnaryRule .vfrcpF16 .f16 Config.frcp16 ∧
    RawUnaryRule .vfrsqrtF16 .f16 Config.frsqrt16 ∧ RawUnaryRule .vfabsF16 .f16 Config.fabs16 ∧
    RawUnaryRule .vfnegF16 .f16 Config.fneg16 ∧ RawUnaryRule .vreluF16 .f16 Config.frelu16 ∧
    RawUnaryRule .vsigmoidF16 .f16 Config.fsigmoid16 ∧ RawUnaryRule .vtanhF16 .f16 Config.ftanh16 ∧
    RawUnaryRule .vexpF16 .f16 Config.fexp16) ∧
  ∀ scale : Int, RawUnaryRule (fun vd vs => .vdequant5F16 vd vs scale) .f16 fun a => Config.dequant5 a scale

/-- R166, R186, R187: VREDSUM.F16 writes and VFDIV.VX.F16 reads the raw string of a scalar register. -/
def Obligations.FloatWithScalar : Prop :=
  ∀ (s : State) (rd rs : XNum) (vd vs : VNum) (n : Nat) (a : Nat → Pat 16) (c : Pat 16), Active s .f16 n →
    HoldsRaw s .f16 vs n a →
    (∃ u, exec (.vredsumF16 rd vs) s = .next u ∧ u.xraw rd = .ok (Config.fredsum16 ((List.range n).map a)) ∧
      OnlyScalar s u rd) ∧
    (s.xraw rs = .ok c → ∃ u, exec (.vfdivVxF16 vd vs rs) s = .next u ∧
      RawResult s u .f16 vd (· < n) fun i => Config.fdiv16 (a i) c)

/-- R188: the three instructions of the softmax sequence, one after another, and their words. -/
def Obligations.SoftmaxSequence : Prop :=
  decode (wordOfCodes 230030010000010000000000) = .ok (.vexpF16 3 1) ∧
  decode (wordOfCodes 230200030000011000000000) = .ok (.vredsumF16 10 3) ∧
  decode (wordOfCodes 130030030200014000000000) = .ok (.vfdivVxF16 3 3 10) ∧
  ∀ (s : State) (n : Nat) (e : Nat → Pat 16), Active s .f16 n → HoldsRaw s .f16 1 n e →
    ∃ s1 s2 u, exec (.vexpF16 3 1) s = .next s1 ∧ exec (.vredsumF16 10 3) s1 = .next s2 ∧
      exec (.vfdivVxF16 3 3 10) s2 = .next u ∧
      (∀ i, i < n → u.vraw 3 .f16 i =
        .ok (Config.fdiv16 (Config.fexp16 (e i)) (Config.fredsum16 ((List.range n).map fun j => Config.fexp16 (e j))))) ∧
      u.xraw 10 = .ok (Config.fredsum16 ((List.range n).map fun j => Config.fexp16 (e j)))

/-! ## Quantisation and pooling (43_neural.md) -/

/-- R189, R191: VQUANT5 and VQUANT25; a scale of 0 gives some value of the element type and no fault. -/
def Obligations.Quantisation : Prop := QuantiseRule .vquant5P16 2 ∧ QuantiseRule .vquant25P16 12

/-- R192 to R194: the pooled values go to the low elements of Vd, at most VL of them, and no other element
changes, whatever the pooling functions are. That the functions are always present, so that both instructions
complete where R192 and R280 let a model refuse, and that a longer answer is cut to VL, is the model's choice (log
entry 9). -/
def Obligations.PoolingResults : Prop := PoolRule .vmaxpool2P16 Config.maxpool2 ∧ PoolRule .vavgpool2P16 Config.avgpool2

/-! ## Matrix (44_matrix.md) -/

/-- R201: VMATVEC leaves in elements 0 to 3 of Vd, whatever VL is, the dot products of the rows of the group
with Vs. -/
def Obligations.MatrixVectorProduct : Prop :=
  ∀ (s : State) (vd : VNum) (base : GNum) (vs : VNum) (n : Nat) (m : Fin 4 → Nat → Int) (a : Nat → Int),
    Active s .p16 n → (∀ r, HoldsInts s .p16 (groupReg base r) n (m r)) → HoldsInts s .p16 vs n a →
    ∃ u, exec (.vmatvecP16 vd base vs) s = .next u ∧
      (∀ r : Fin 4, u.ve vd .p16 r = .ok (wrap 16 ((List.range n).map fun j => m r j * a j).sum)) ∧
      OnlyElements s u .p16 (· = vd) (· < 4)

/-- R202: VOUTER leaves row `i` of the outer product in register `b + i` of the group. -/
def Obligations.OuterProduct : Prop :=
  ∀ (s : State) (base : GNum) (vs1 vs2 : VNum) (n : Nat) (a : Fin 4 → Int) (b : Nat → Int), Active s .p16 n →
    (∀ i : Fin 4, s.ve vs1 .p16 i = .ok (a i)) → HoldsInts s .p16 vs2 n b →
    ∃ u, exec (.vouterP16 base vs1 vs2) s = .next u ∧
      (∀ (i : Fin 4) (j : Nat), j < n → u.ve (groupReg base i) .p16 j = .ok (wrap 16 (a i * b j))) ∧
      OnlyElements s u .p16 (fun m => ∃ i, m = groupReg base i) (· < n)

/-- R206, R207: VMMCROSS writes what the crossbar answers, whatever the crossbar is. That a crossbar is always
present, so that the instruction completes where R206 and R280 let a model refuse, and that it answers element by
element, is the model's choice (log entry 10). -/
def Obligations.CrossbarQuery : Prop :=
  ∀ (s : State) (vd vs : VNum) (addr : Int) (n : Nat) (a : Nat → Int), Active s .p16 n → HoldsInts s .p16 vs n a →
    ∃ u, exec (.vmmcrossP16 vd vs addr) s = .next u ∧
      IntResult s u .p16 vd (· < n) fun i => Config.crossbar addr ((List.range n).map a) i

/-! ## Loads and stores (45_memory_ops.md) -/

/-- R211, R217 to R219: the unit-stride loads and the segment loads. -/
def Obligations.UnitStrideAndSegmentLoads : Prop :=
  UnitLoadRule .vldP16 .p16 1 ∧ UnitLoadRule .vldP28 .p28 1 ∧ UnitLoadRule .vldF16 .f16 1 ∧
    UnitLoadRule .vlseg2P16 .p16 2 ∧ UnitLoadRule .vlseg3P16 .p16 3 ∧ UnitLoadRule .vlseg4P16 .p16 4

/-- R213, R215: VLDS reads element `i` at `b + i * x[Rt]`, VLDI at `b` plus element `i` of Vi. -/
def Obligations.StridedAndGatherLoads : Prop :=
  ∀ (s : State) (vd vi : VNum) (rs rt : XNum) (n : Nat) (b st : Int) (o : Nat → Int) (e : Nat → Pat 16),
    Active s .p16 n → s.xval rs = .ok b →
    (s.xval rt = .ok st → (∀ i : Nat, i < n → Spells s 16 (b + i * st) (e i)) →
      ∃ u, exec (.vldsP16 vd rs rt) s = .next u ∧ RawResult s u .p16 vd (· < n) e) ∧
    (HoldsInts s .p16 vi n o → (∀ i : Nat, i < n → Spells s 16 (b + o i) (e i)) →
      ∃ u, exec (.vldiP16 vd rs vi) s = .next u ∧ RawResult s u .p16 vd (· < n) e)

/-- R212, R220: the unit-stride stores and VSSEG2. -/
def Obligations.UnitStrideAndSegmentStores : Prop :=
  UnitStoreRule .vstP16 .p16 1 ∧ UnitStoreRule .vstP28 .p28 1 ∧ UnitStoreRule .vstF16 .f16 1 ∧
    UnitStoreRule .vsseg2P16 .p16 2

/-- R214, R216: VSTS writes element `i` at `b + i * x[Rt]`, VSTI at `b` plus element `i` of Vi; where elements
overlap the higher-numbered remains (R60). -/
def Obligations.StridedAndScatterStores : Prop :=
  ∀ (s : State) (vs vi : VNum) (rd rt : XNum) (n : Nat) (b st : Int) (o : Nat → Int) (e : Nat → Pat 16),
    Active s .p16 n → s.xval rd = .ok b → HoldsRaw s .p16 vs n e →
    (s.xval rt = .ok st → (∀ i : Nat, i < n → Storable s 16 (b + i * st)) →
      ∃ u, exec (.vstsP16 vs rd rt) s = .next u ∧ StoreResult s u 16 (· < n) (fun i => b + i * st) e) ∧
    (HoldsInts s .p16 vi n o → (∀ i : Nat, i < n → Storable s 16 (b + o i)) →
      ∃ u, exec (.vstiP16 vs rd vi) s = .next u ∧ StoreResult s u 16 (· < n) (fun i => b + o i) e)

/-- R57, R211, R212: what VST.P16 stores, VLD.P16 from the same base loads. -/
def Obligations.StoreThenLoadRestores : Prop :=
  ∀ (s : State) (vs vd : VNum) (r : XNum) (n : Nat) (b : Int) (e : Nat → Pat 16), Active s .p16 n →
    s.xval r = .ok b → HoldsRaw s .p16 vs n e → (∀ i : Nat, i < n → Storable s 16 (b + i * 16)) →
    ∃ t u, exec (.vstP16 vs r) s = .next t ∧ exec (.vldP16 vd r) t = .next u ∧ HoldsRaw u .p16 vd n e

/-- R102: the F16 spellings of VLD and VST do what the P16 spellings do. -/
def Obligations.FloatMovesAreIntegerMoves : Prop :=
  ∀ (s : State) (v : VNum) (r : XNum), exec (.vldF16 v r) s = exec (.vldP16 v r) s ∧
    exec (.vstF16 v r) s = exec (.vstP16 v r) s

/-! ## Predicated and mask instructions (46_masked.md) -/

/-- R231, R232: VADD.P16.M reads and writes the active elements alone. -/
def Obligations.MaskedAddition : Prop :=
  ∀ (s : State) (vd vs1 vs2 : VNum) (vm : MNum) (n : Nat) (m : Nat → Bool) (a b : Nat → Int), Active s .p16 n →
    HoldsBits s vm n m →
    (∀ i, i < n → m i = true → s.ve vs1 .p16 i = .ok (a i) ∧ s.ve vs2 .p16 i = .ok (b i)) →
    ∃ u, exec (.vaddP16M vd vs1 vs2 vm) s = .next u ∧
      IntResult s u .p16 vd (fun i => i < n ∧ m i = true) fun i => a i + b i

/-- R231, R233: VLD.P16.M touches memory for the active elements alone. -/
def Obligations.MaskedLoad : Prop :=
  ∀ (s : State) (vd : VNum) (rs : XNum) (vm : MNum) (n : Nat) (b : Int) (m : Nat → Bool) (e : Nat → Pat 16),
    Active s .p16 n → s.xval rs = .ok b → HoldsBits s vm n m →
    (∀ i : Nat, i < n → m i = true → Spells s 16 (b + i * 16) (e i)) →
    ∃ u, exec (.vldP16M vd rs vm) s = .next u ∧ RawResult s u .p16 vd (fun i => i < n ∧ m i = true) e

/-- R231, R234: VST.P16.M reads and stores the active elements alone. -/
def Obligations.MaskedStore : Prop :=
  ∀ (s : State) (vs : VNum) (rd : XNum) (vm : MNum) (n : Nat) (b : Int) (m : Nat → Bool) (e : Nat → Pat 16),
    Active s .p16 n → s.xval rd = .ok b → HoldsBits s vm n m →
    (∀ i : Nat, i < n → m i = true → s.vraw vs .p16 i = .ok (e i) ∧ Storable s 16 (b + i * 16)) →
    ∃ u, exec (.vstP16M vs rd vm) s = .next u ∧
      StoreResult s u 16 (fun i => i < n ∧ m i = true) (fun i => b + i * 16) e

/-- R237 to R240: the logical operations on bits 0 to VL - 1 of masks. -/
def Obligations.MaskLogic : Prop :=
  MaskBinaryRule .vmand (fun p q => p && q) ∧ MaskBinaryRule .vmor (fun p q => p || q) ∧
    MaskBinaryRule .vmxor (fun p q => p ^^ q) ∧
    ∀ (s : State) (md ma : MNum) (n : Nat) (p : Nat → Bool), s.vl = some n → HoldsBits s ma n p →
      ∃ u, exec (.vmnot md ma) s = .next u ∧ MaskResult s u md n fun i => !p i

/-- R235, R236: VMPOPC counts the bits below VL that are 1; VMFFS gives the least index of one, or -1. -/
def Obligations.MaskCounts : Prop :=
  ∀ (s : State) (rd : XNum) (ma : MNum) (n : Nat) (b : Nat → Bool), s.vl = some n → HoldsBits s ma n b →
    (∃ u, exec (.vmpopc rd ma) s = .next u ∧ u.xval rd = .ok (((List.range n).filter b).length : Int) ∧
      OnlyScalar s u rd) ∧
    (∃ u, exec (.vmffs rd ma) s = .next u ∧ OnlyScalar s u rd ∧
      (∀ i, i < n → b i = true → (∀ j, j < i → b j = false) → u.xval rd = .ok (i : Int)) ∧
      ((∀ i, i < n → b i = false) → u.xval rd = .ok (-1)))

/-! ## Permutation (47_permute.md) -/

/-- R251: VPERM gathers by the indices in Vi; only the elements selected are read. -/
def Obligations.PermutationByIndex : Prop :=
  ∀ (s : State) (vd vs vi : VNum) (n : Nat) (j : Nat → Nat) (e : Nat → Pat 16), Active s .p16 n →
    HoldsInts s .p16 vi n (fun i => j i) → (∀ i, i < n → j i < n ∧ s.vraw vs .p16 (j i) = .ok (e i)) →
    ∃ u, exec (.vpermP16 vd vs vi) s = .next u ∧ RawResult s u .p16 vd (· < n) e

/-- R252, R253: VREV reverses the active elements; VROT moves element `i` to `(i + imm) mod VL`. -/
def Obligations.ReverseAndRotate : Prop :=
  ∀ (s : State) (vd vs : VNum) (imm : Int) (n : Nat) (e : Nat → Pat 16), Active s .p16 n → HoldsRaw s .p16 vs n e →
    (∃ u, exec (.vrevP16 vd vs) s = .next u ∧ RawResult s u .p16 vd (· < n) fun i => e (n - 1 - i)) ∧
    (∃ u, exec (.vrotP16 vd vs imm) s = .next u ∧
      (∀ i : Nat, i < n → u.vraw vd .p16 (((i : Int) + imm) % n).toNat = .ok (e i)) ∧
      OnlyElements s u .p16 (· = vd) (· < n))

/-- R254, R255: VZIP leaves in Vd1 then Vd2 the interleaved sequence; VUNZIP the even-numbered entries of Vs1
followed by Vs2 in Vd1 and the odd-numbered in Vd2. -/
def Obligations.ZipAndUnzip : Prop :=
  ∀ (s : State) (vd1 vd2 vs1 vs2 : VNum) (n : Nat) (a b : Nat → Pat 16), vd1 ≠ vd2 → Active s .p16 n →
    HoldsRaw s .p16 vs1 n a → HoldsRaw s .p16 vs2 n b →
    (∃ u, exec (.vzipP16 vd1 vd2 vs1 vs2) s = .next u ∧
      (∀ j, j < n → u.vraw vd1 .p16 j = .ok (if j % 2 = 0 then a (j / 2) else b (j / 2))) ∧
      (∀ j, j < n → u.vraw vd2 .p16 j = .ok (if (n + j) % 2 = 0 then a ((n + j) / 2) else b ((n + j) / 2))) ∧
      OnlyElements s u .p16 (fun m => m = vd1 ∨ m = vd2) (· < n)) ∧
    (∃ u, exec (.vunzipP16 vd1 vd2 vs1 vs2) s = .next u ∧
      (∀ k, k < n → u.vraw vd1 .p16 k = .ok (if 2 * k < n then a (2 * k) else b (2 * k - n))) ∧
      (∀ k, k < n → u.vraw vd2 .p16 k = .ok (if 2 * k + 1 < n then a (2 * k + 1) else b (2 * k + 1 - n))) ∧
      OnlyElements s u .p16 (fun m => m = vd1 ∨ m = vd2) (· < n))

/-- R255: VUNZIP undoes VZIP under the same VL. -/
def Obligations.UnzipUndoesZip : Prop :=
  ∀ (s : State) (za zb x y p q : VNum) (n : Nat) (a b : Nat → Pat 16), za ≠ zb → p ≠ q → Active s .p16 n →
    HoldsRaw s .p16 x n a → HoldsRaw s .p16 y n b →
    ∃ t u, exec (.vzipP16 za zb x y) s = .next t ∧ exec (.vunzipP16 p q za zb) t = .next u ∧
      HoldsRaw u .p16 p n a ∧ HoldsRaw u .p16 q n b

/-- R256, R257, R258: VBROADCAST, VEXTRACT and VINSERT with an index below VL. -/
def Obligations.BroadcastExtractInsert : Prop :=
  ∀ (s : State) (vd vs : VNum) (rd rs : XNum) (n k : Nat) (a c : Int), Active s .p16 n →
    (s.xval rs = .ok c → ∃ u, exec (.vbroadcastP16 vd rs) s = .next u ∧ IntResult s u .p16 vd (· < n) fun _ => c) ∧
    (k < n → s.ve vs .p16 k = .ok a →
      ∃ u, exec (.vextractP16 rd vs k) s = .next u ∧ u.xval rd = .ok a ∧ OnlyScalar s u rd) ∧
    (k < n → s.xval rs = .ok c →
      ∃ u, exec (.vinsertP16 vd rs k) s = .next u ∧ IntResult s u .p16 vd (· = k) fun _ => c)

/-! ## Faults (60_exceptions.md) -/

/-- R30, R44: every instruction but SETVL, SETVLI, VSETTYPE and VGETCFG reads VL first. -/
def Obligations.UndefinedLengthFaults : Prop :=
  ∀ (i : Instr) (s : State), i.isConfig = false → s.vl = none → exec i s = .fault (.undefRead .vl)

/-- R32: every instruction with a suffix checks VL against the suffix, before it reads anything else. -/
def Obligations.LengthTooLargeFaults : Prop :=
  ∀ (i : Instr) (s : State) (t : EType) (n : Nat), i.suffix = some t → s.vl = some n → epr t < n →
    exec i s = .fault (.vlTooLarge n (epr t))

/-- R221: a segment instruction whose VL is no multiple of its segment size raises SegVL. -/
def Obligations.PartialSegmentFaults : Prop :=
  ∀ (s : State) (v : VNum) (r : XNum) (n : Nat) (b : Int), Active s .p16 n → s.xval r = .ok b →
    (n % 2 ≠ 0 → exec (.vlseg2P16 v r) s = .fault (.segVL n 2) ∧ exec (.vsseg2P16 v r) s = .fault (.segVL n 2)) ∧
    (n % 3 ≠ 0 → exec (.vlseg3P16 v r) s = .fault (.segVL n 3)) ∧
    (n % 4 ≠ 0 → exec (.vlseg4P16 v r) s = .fault (.segVL n 4))

/-- R250, R251, R257, R258: an index outside 0 to VL - 1 raises IndexRange; in VPERM the lowest such element,
before it reads the element of Vs. -/
def Obligations.IndexRangeFaults : Prop :=
  ∀ (s : State) (vd vs vi : VNum) (rd rs : XNum) (idx : Int) (n i : Nat) (j : Nat → Nat) (e : Nat → Pat 16),
    Active s .p16 n → (idx < 0 ∨ (n : Int) ≤ idx) →
    exec (.vextractP16 rd vs idx) s = .fault (.indexRange idx n) ∧
    exec (.vinsertP16 vd rs idx) s = .fault (.indexRange idx n) ∧
    (i < n → s.ve vi .p16 i = .ok idx →
      (∀ k, k < i → s.ve vi .p16 k = .ok (j k : Int) ∧ j k < n ∧ s.vraw vs .p16 (j k) = .ok (e k)) →
      exec (.vpermP16 vd vs vi) s = .fault (.indexRange idx n))

/-- R55, R210: which address a unit-stride load that cannot be made names. -/
def Obligations.LoadFaultsNameLowestAddress : Prop :=
  UnitLoadFaultRule .vldP16 .p16 ∧ UnitLoadFaultRule .vldP28 .p28 ∧ UnitLoadFaultRule .vldF16 .f16

/-- R56, R67, R210: which address a unit-stride store that may not be made names. That MemFault comes before
CodeWrite within one element is the model's choice (log entry 15). -/
def Obligations.StoreFaultsNameLowestAddress : Prop :=
  UnitStoreFaultRule .vstP16 .p16 ∧ UnitStoreFaultRule .vstP28 .p28 ∧ UnitStoreFaultRule .vstF16 .f16

/-- R44, R120, R273: an element that holds no value faults, the lowest element first. That within one element Vs1 is
read before Vs2 is the model's inference from the order in which the pseudocode names them (log entry 12). -/
def Obligations.UndefinedElementFaults : Prop :=
  UndefBinaryRule .vaddP16 .p16 ∧ UndefBinaryRule .vaddP28 .p28 ∧ UndefBinaryRule .vaddP14 .p14 ∧
    UndefBinaryRule .vsubP16 .p16 ∧ UndefBinaryRule .vsubP28 .p28 ∧ UndefBinaryRule .vmulP16 .p16

/-- R44, R273: a scalar operand that holds no value faults, before any element or memory is read. -/
def Obligations.UndefinedScalarFaults : Prop :=
  ∀ (s : State) (v : VNum) (w : VNum) (k : MNum) (r q : XNum), s.x[r] = none →
    ((∃ ty, s.vtype = some ty) → exec (.setvl q r) s = .fault (.undefRead (.x r))) ∧
    (∀ n, Active s .p16 n →
      exec (.vaddVxP16 v w r) s = .fault (.undefRead (.x r)) ∧ exec (.vmulVxP16 v w r) s = .fault (.undefRead (.x r)) ∧
      exec (.vfdivVxF16 v w r) s = .fault (.undefRead (.x r)) ∧ exec (.vbroadcastP16 v r) s = .fault (.undefRead (.x r)) ∧
      exec (.vldP16 v r) s = .fault (.undefRead (.x r)) ∧ exec (.vldF16 v r) s = .fault (.undefRead (.x r)) ∧
      exec (.vstP16 v r) s = .fault (.undefRead (.x r)) ∧ exec (.vstF16 v r) s = .fault (.undefRead (.x r)) ∧
      exec (.vldsP16 v r q) s = .fault (.undefRead (.x r)) ∧ exec (.vstsP16 v r q) s = .fault (.undefRead (.x r)) ∧
      exec (.vldiP16 v r w) s = .fault (.undefRead (.x r)) ∧ exec (.vstiP16 v r w) s = .fault (.undefRead (.x r)) ∧
      exec (.vlseg2P16 v r) s = .fault (.undefRead (.x r)) ∧ exec (.vlseg3P16 v r) s = .fault (.undefRead (.x r)) ∧
      exec (.vlseg4P16 v r) s = .fault (.undefRead (.x r)) ∧ exec (.vsseg2P16 v r) s = .fault (.undefRead (.x r)) ∧
      exec (.vldP16M v r k) s = .fault (.undefRead (.x r)) ∧ exec (.vstP16M v r k) s = .fault (.undefRead (.x r)))

/-! ## The machine -/

/-- R57, R279: where pc is at an instruction of the program, no fault is recorded and the 24 pents at pc spell
a word, the step runs the instruction the word decodes to. -/
def Obligations.StepRunsDecodedInstruction : Prop :=
  ∀ (s : State) (w : InstrWord) (i : Instr), s.fault = none → s.codeLo ≤ s.pc → s.pc + 24 ≤ s.codeHi →
    (s.pc - s.codeLo) % 24 = 0 → Spells s 24 s.pc w → decode w = .ok i → step s = exec i s

/-- R96, R271: a reserved encoding raises IllegalInstruction with the word, whatever else the state holds. -/
def Obligations.ReservedWordFaults : Prop :=
  ∀ (s : State) (w : InstrWord) (r : Reject), s.fault = none → s.codeLo ≤ s.pc → s.pc + 24 ≤ s.codeHi →
    (s.pc - s.codeLo) % 24 = 0 → Spells s 24 s.pc w → decode w = .error r →
    step s = .fault (.illegalInstruction w)

/-- R46, R279: the end of the program is no fault, a pc that is no instruction address is no legal launch, and
once a fault is recorded no instruction executes. That the first two are refusals is log entry 5. -/
def Obligations.RunEndings : Prop :=
  ∀ s : State, (s.fault = none → s.pc = s.codeHi → step s = .refused .endOfProgram) ∧
    (s.fault = none → s.pc ≠ s.codeHi →
      ¬ (s.codeLo ≤ s.pc ∧ s.pc + 24 ≤ s.codeHi ∧ (s.pc - s.codeLo) % 24 = 0) →
      step s = .refused (.illegalLaunch s.pc)) ∧
    (∀ f, s.fault = some f → step s = .fault f)

/-- R46, R272: a step that faults leaves the state as it was, with the fault recorded, and every later step
answers the same fault. `State.after`, `State.recordFault` and a recorded fault being answered again are how the
model renders these rules (log entry 6). -/
def Obligations.FaultWritesNothing : Prop :=
  ∀ (s : State) (f : Fault), s.fault = none → step s = .fault f →
    s.after = { s with fault := some f } ∧ step s.after = .fault f ∧ s.after.after = s.after

/-- R30, R31, R50 to R52, R67, R279: every step that goes on keeps a legal state legal. -/
def Obligations.LegalStateKept : Prop := ∀ s u : State, Legal s → step s = .next u → Legal u

/-- The state after reset is legal, and so is the one with any word of the opcode table loaded. The registers
and ranges of reset are the model's choice (log entries 1 and 4). -/
def Obligations.ResetIsLegal : Prop :=
  Legal State.reset ∧ ∀ nbits w : Nat, Legal (State.reset.withFetchWord nbits w)

/-- R36, R39, R40, R67: what each instruction that completes may change: its destination and pc, which
advances by 24; a store changes no pent of the program and none outside the valid range. The addresses a store may
change are those computed in `UnitStrideAndSegmentStores`, `StridedAndScatterStores` and `MaskedStore`. The count of
draws, which an instruction with a vector destination may change, is the model's own (log entry 7). -/
def Obligations.EveryInstructionFrame : Prop :=
  ∀ (i : Instr) (s u : State), exec i s = .next u → FrameOf i.dest s u

/-- R25, R29, R36: elements at and above VL, padding pents and mask bits at and above VL keep their contents in
every instruction, but for elements 0 to 3 of Vd in VMATVEC. -/
def Obligations.TailAndPaddingKept : Prop :=
  ∀ (i : Instr) (s u : State) (n : Nat), exec i s = .next u → s.vl = some n →
    (∀ (t : EType) (m : VNum) (p : Nat), i.suffix = some t → n * ew t ≤ p →
      (∀ vd b vs, i = .vmatvecP16 vd b vs → 4 * ew t ≤ p) → u.vpent m p = s.vpent m p) ∧
    (∀ (k : MNum) (j : Nat), n ≤ j → u.mbit k j = s.mbit k j)

/-- R44: no instruction takes a value away: what holds a value before holds one after. -/
def Obligations.DefinedStaysDefined : Prop :=
  ∀ (i : Instr) (s u : State), exec i s = .next u → KeepsDefined s u

/-- R33: VTYPE has no effect on an instruction other than SETVL, SETVLI, VSETTYPE and VGETCFG: with another
VTYPE the outcome is the same, but for VTYPE itself. -/
def Obligations.ElementTypeDoesNotInterfere : Prop :=
  ∀ (i : Instr) (s : State) (ty : Option EType), i.isConfig = false →
    exec i { s with vtype := ty } = mapNext (fun u => { u with vtype := ty }) (exec i s)

/-! ## Encoding (30_encoding.md) -/

/-- R80 to R101: every well-formed instruction is what its word decodes to. -/
def Obligations.DecodeOfEncode : Prop := ∀ i : Instr, i.WF → decode (encode i) = .ok i

/-- R96, R101: a word that is an instruction is well-formed and is the only word of it, so every other word is
a reserved encoding. -/
def Obligations.EncodeOfDecode : Prop := ∀ (w : InstrWord) (i : Instr), decode w = .ok i → i.WF ∧ encode i = w

/-- R101: words as the rules of the instructions print them. -/
def Obligations.PrintedWordsDecode : Prop :=
  decode (wordOfCodes 020040010100010000000000) = .ok (.vaddP16 4 1 5) ∧
  decode (wordOfCodes 020110020030014000000012) = .ok (.vwmulP16 6 7 2 3) ∧
  decode (wordOfCodes 040030010000011000000042) = .ok (.vaddViP16 3 1 (-3)) ∧
  decode (wordOfCodes 140040010020012000000111) = .ok (.vfnmaddF16 4 1 2 31) ∧
  decode (wordOfCodes 310030010000012000023000) = .ok (.vmmcrossP16 3 1 1000) ∧
  decode (wordOfCodes 020030010021310000000000) = .ok (.vaddP16M 3 1 2 7) ∧
  decode (wordOfCodes 010000000000002000000013) = .ok (.vsettype .p55)

/-! ## Numbers (00_scope.md, 41_integer.md, 43_neural.md) -/

/-- R13, R14: every integer of the range has exactly one string, a string spells an integer of the range, and
the string of any integer spells the one integer of the range congruent to it. -/
def Obligations.StringsAndIntegers : Prop :=
  (∀ (n : Nat) (v : Int), -half n ≤ v → v ≤ half n → ∃ p : Pat n, ival p = v ∧ ∀ q : Pat n, ival q = v → q = p) ∧
  (∀ (n : Nat) (p : Pat n), -half n ≤ ival p ∧ ival p ≤ half n) ∧
  (∀ (n : Nat) (v : Int), (5 : Int) ^ n ∣ ival (strOf n v) - v) ∧
  (∀ (n m : Nat) (p : Pat (n + m)) (q : Pat n), (∀ k, (h : k < n) → q[k] = p[k]) → ival q = wrap n (ival p))

/-- R127: the quotient truncates toward zero and never exceeds the dividend; the remainder is zero or has the
sign of the dividend and is smaller than the divisor. -/
def Obligations.DivisionTruncates : Prop :=
  ∀ a b : Int, b ≠ 0 →
    imod a b = a - b * idiv a b ∧ |imod a b| < |b| ∧ (imod a b = 0 ∨ (imod a b).sign = a.sign) ∧
      |b * idiv a b| ≤ |a| ∧ |idiv a b| ≤ |a|

/-- R196: rounding division gives the nearest integer, a tie going away from zero. -/
def Obligations.RoundingDivision : Prop :=
  ∀ a d : Int, d ≠ 0 →
    2 * |a - d * rdiv a d| ≤ |d| ∧ (2 * |a - d * rdiv a d| = |d| → |a| < |d * rdiv a d|)
end

