-- ==== Sys2Proof/Laws/Numeral.lean ====
section
/-! SUPPORT. Pent strings and integers: the value of the string of a number is the number wrapped (R14), a
string is the string of its value (R13), and code fields read back. -/

namespace Sys2Proof.Machine

@[simp] theorem tabulate_getElem {α : Type} (n : Nat) (f : Nat → α) (k : Nat) (h : k < n) :
    (tabulate n f)[k] = f k := by simp [tabulate]

@[simp] theorem tabulate_getElem? {α : Type} (n : Nat) (f : Nat → α) (k : Nat) :
    (tabulate n f)[k]? = if k < n then some (f k) else none := by
  by_cases h : k < n <;> simp [h]

theorem five_pow_odd (n : Nat) : ∃ m : Int, (5 : Int) ^ n = 2 * m + 1 := by
  induction n with
  | zero => exact ⟨0, rfl⟩
  | succ n ih => obtain ⟨m, hm⟩ := ih; exact ⟨5 * m + 2, by rw [pow_succ, hm]; ring⟩

theorem five_pow_eq_half (n : Nat) : (5 : Int) ^ n = 2 * half n + 1 := by
  obtain ⟨m, hm⟩ := five_pow_odd n
  unfold half; omega

theorem half_nonneg (n : Nat) : 0 ≤ half n := by
  have h := five_pow_eq_half n
  have : (0 : Int) < 5 ^ n := by positivity
  omega

theorem half_succ (n : Nat) : half (n + 1) = 5 * half n + 2 := by
  have h := five_pow_eq_half n
  have h' := five_pow_eq_half (n + 1)
  rw [pow_succ] at h'
  omega

theorem wrap_bounds (n : Nat) (x : Int) : -half n ≤ wrap n x ∧ wrap n x ≤ half n := by
  have h := five_pow_eq_half n
  have p : (0 : Int) < 5 ^ n := by positivity
  have h1 := Int.emod_nonneg (x + half n) p.ne'
  have h2 := Int.emod_lt_of_pos (x + half n) p
  unfold wrap; omega

theorem wrap_dvd (n : Nat) (x : Int) : (5 : Int) ^ n ∣ x - wrap n x := by
  have h := Int.emod_add_mul_ediv (x + half n) (5 ^ n)
  refine ⟨(x + half n) / 5 ^ n, ?_⟩
  unfold wrap; linarith

/-- The wrapped value is the only one of the range in its residue class. -/
theorem wrap_unique (n : Nat) (x y : Int) (lo : -half n ≤ y) (hi : y ≤ half n) (d : (5 : Int) ^ n ∣ x - y) :
    y = wrap n x := by
  obtain ⟨a, ha⟩ := d
  obtain ⟨b, hb⟩ := wrap_dvd n x
  obtain ⟨l, u⟩ := wrap_bounds n x
  have h := five_pow_eq_half n
  have hh := half_nonneg n
  have e : wrap n x - y = 5 ^ n * (a - b) := by rw [mul_sub, ← ha, ← hb]; ring
  have : a - b = 0 := by
    by_contra hne
    rcases lt_or_gt_of_ne hne with hlt | hgt <;> nlinarith
  rw [this] at e; omega

theorem wrap_of_range (n : Nat) (x : Int) (lo : -half n ≤ x) (hi : x ≤ half n) : wrap n x = x :=
  (wrap_unique n x x lo hi (by simp)).symm

theorem wrap_wrap (n : Nat) (x : Int) : wrap n (wrap n x) = wrap n x :=
  wrap_of_range n _ (wrap_bounds n x).1 (wrap_bounds n x).2

theorem Pent.val_bounds (d : Pent) : -2 ≤ d.val ∧ d.val ≤ 2 := by cases d <;> decide

theorem digit_spec (v : Int) : (5 : Int) ∣ v - (digit v).val := by
  have h0 := Int.emod_nonneg v (by decide : (5 : Int) ≠ 0)
  have h5 := Int.emod_lt_of_pos v (by decide : (0 : Int) < 5)
  unfold digit
  generalize hr : v % 5 = r at *
  have : r = 0 ∨ r = 1 ∨ r = 2 ∨ r = 3 ∨ r = 4 := by omega
  rcases this with rfl | rfl | rfl | rfl | rfl <;> simp [Pent.ofCode, Pent.val] <;> omega

theorem digit_val (d : Pent) (v : Int) : digit (d.val + 5 * v) = d := by
  unfold digit
  have e : (d.val + 5 * v) % 5 = d.val % 5 := by omega
  rw [e]; cases d <;> rfl

theorem listVal_digits (n : Nat) (v : Int) :
    listVal (digits n v) = wrap n v := by
  induction n generalizing v with
  | zero => simp [digits, listVal, wrap, half]
  | succ n ih =>
    obtain ⟨q, hq⟩ := digit_spec v
    have e : (v - (digit v).val) / 5 = q := by omega
    simp only [digits, listVal, e, ih]
    obtain ⟨l, u⟩ := wrap_bounds n q
    obtain ⟨d, hd⟩ := wrap_dvd n q
    have hv := Pent.val_bounds (digit v)
    have hs := half_succ n
    refine wrap_unique (n + 1) v _ (by omega) (by omega) ⟨d, ?_⟩
    rw [pow_succ]; linarith

/-- R14: the value of the string of `v` is `wrap_n(v)`. -/
@[simp] theorem ival_strOf (n : Nat) (v : Int) : ival (strOf n v) = wrap n v := by
  have : (strOf n v).toList = digits n v := rfl
  rw [ival, this, listVal_digits]

theorem listVal_bounds (ds : List Pent) : -half ds.length ≤ listVal ds ∧ listVal ds ≤ half ds.length := by
  induction ds with
  | nil => exact ⟨by decide, by decide⟩
  | cons d ds ih =>
    have hv := Pent.val_bounds d
    simp only [List.length_cons, half_succ, listVal]; omega

/-- R13: the range of an `n`-pent integer. -/
theorem ival_bounds {n : Nat} (p : Pat n) : -half n ≤ ival p ∧ ival p ≤ half n := by
  have h := listVal_bounds p.toList
  rwa [Vector.length_toList] at h

theorem digits_listVal (ds : List Pent) : digits ds.length (listVal ds) = ds := by
  induction ds with
  | nil => rfl
  | cons d ds ih =>
    have e : (d.val + 5 * listVal ds - d.val) / 5 = listVal ds := by omega
    simp only [List.length_cons, digits, listVal, digit_val, e, ih]

/-- R13: a string is the string of its value, so a value has one string. -/
@[simp] theorem strOf_ival {n : Nat} (p : Pat n) : strOf n (ival p) = p := by
  have h : (strOf n (ival p)).toList = p.toList := by
    have : (strOf n (ival p)).toList = digits n (listVal p.toList) := rfl
    rw [this]
    have h := digits_listVal p.toList
    rwa [Vector.length_toList] at h
  exact Vector.toList_inj.mp h

theorem wrap_ival {n : Nat} (p : Pat n) : wrap n (ival p) = ival p :=
  wrap_of_range n _ (ival_bounds p).1 (ival_bounds p).2

@[simp] theorem strOf_wrap (n : Nat) (v : Int) : strOf n (wrap n v) = strOf n v := by
  rw [← ival_strOf, strOf_ival]

end Sys2Proof.Machine

namespace Sys2Proof

theorem codeNum_codePents (len v : Nat) (h : v < 5 ^ len) : codeNum (codePents len v) = v := by
  induction len generalizing v with
  | zero => simp [codePents, codeNum] at *; omega
  | succ n ih =>
    rw [pow_succ] at h
    have hc : (Pent.ofCode v).code = v % 5 := by
      have : v % 5 < 5 := Nat.mod_lt _ (by decide)
      unfold Pent.ofCode
      generalize v % 5 = r at *
      interval_cases r <;> rfl
    simp only [codePents, codeNum, hc, ih (v / 5) (by omega)]; omega

end Sys2Proof
end

