-- ==== Sys2Proof/Laws/PerInstr.lean ====
section
/-! SUPPORT. A family of statements made per instruction: every field of an encoding fits the width the format
gives it (R80), so that no pent of an encoding is lost. -/

namespace Sys2Proof

/-- R80: the numbers in the fields of a word fit them: VOP two pents, registers three, Vm two, Width and Func
one. -/
def Fields.InRange (f : Fields) : Prop :=
  f.vop < 25 ∧ f.vd < 125 ∧ f.vs1 < 125 ∧ f.vs2 < 125 ∧ f.vm < 25 ∧ f.width < 5 ∧ f.func < 5

namespace Laws.FieldsInRange

set_option Elab.async false

/-- R80: the fields of the instruction fit. -/
def Statement (i : Instr) : Prop := (encodeFields i).InRange

theorem setvl (rd : XNum) (rs : XNum) : Statement (.setvl rd rs) := by
  simp only [Statement, Fields.InRange, encodeFields]; omega

theorem setvli (rd : XNum) (imm : Int) : Statement (.setvli rd imm) := by
  simp only [Statement, Fields.InRange, encodeFields]; omega

theorem vsettype (t : EType) : Statement (.vsettype t) := by
  simp only [Statement, Fields.InRange, encodeFields]; omega

theorem vgetcfg (rd : XNum) : Statement (.vgetcfg rd) := by
  simp only [Statement, Fields.InRange, encodeFields]; omega

theorem vaddP16 (vd : VNum) (vs1 : VNum) (vs2 : VNum) : Statement (.vaddP16 vd vs1 vs2) := by
  simp only [Statement, Fields.InRange, encodeFields]; omega

theorem vaddP28 (vd : VNum) (vs1 : VNum) (vs2 : VNum) : Statement (.vaddP28 vd vs1 vs2) := by
  simp only [Statement, Fields.InRange, encodeFields]; omega

theorem vaddP14 (vd : VNum) (vs1 : VNum) (vs2 : VNum) : Statement (.vaddP14 vd vs1 vs2) := by
  simp only [Statement, Fields.InRange, encodeFields]; omega

theorem vsubP16 (vd : VNum) (vs1 : VNum) (vs2 : VNum) : Statement (.vsubP16 vd vs1 vs2) := by
  simp only [Statement, Fields.InRange, encodeFields]; omega

theorem vsubP28 (vd : VNum) (vs1 : VNum) (vs2 : VNum) : Statement (.vsubP28 vd vs1 vs2) := by
  simp only [Statement, Fields.InRange, encodeFields]; omega

theorem vnegP16 (vd : VNum) (vs : VNum) : Statement (.vnegP16 vd vs) := by
  simp only [Statement, Fields.InRange, encodeFields]; omega

theorem vmulP16 (vd : VNum) (vs1 : VNum) (vs2 : VNum) : Statement (.vmulP16 vd vs1 vs2) := by
  simp only [Statement, Fields.InRange, encodeFields]; omega

theorem vwmulP16 (vd1 : VNum) (vd2 : VNum) (vs1 : VNum) (vs2 : VNum) : Statement (.vwmulP16 vd1 vd2 vs1 vs2) := by
  simp only [Statement, Fields.InRange, encodeFields]; omega

theorem vdivP16 (vd : VNum) (vs1 : VNum) (vs2 : VNum) : Statement (.vdivP16 vd vs1 vs2) := by
  simp only [Statement, Fields.InRange, encodeFields]; omega

theorem vmodP16 (vd : VNum) (vs1 : VNum) (vs2 : VNum) : Statement (.vmodP16 vd vs1 vs2) := by
  simp only [Statement, Fields.InRange, encodeFields]; omega

theorem vaddVxP16 (vd : VNum) (vs : VNum) (rs : XNum) : Statement (.vaddVxP16 vd vs rs) := by
  simp only [Statement, Fields.InRange, encodeFields]; omega

theorem vaddViP16 (vd : VNum) (vs : VNum) (imm : Int) : Statement (.vaddViP16 vd vs imm) := by
  simp only [Statement, Fields.InRange, encodeFields]; omega

theorem vmulVxP16 (vd : VNum) (vs : VNum) (rs : XNum) : Statement (.vmulVxP16 vd vs rs) := by
  simp only [Statement, Fields.InRange, encodeFields]; omega

theorem vmulViP16 (vd : VNum) (vs : VNum) (imm : Int) : Statement (.vmulViP16 vd vs imm) := by
  simp only [Statement, Fields.InRange, encodeFields]; omega

theorem vredsumP16 (rd : XNum) (vs : VNum) : Statement (.vredsumP16 rd vs) := by
  simp only [Statement, Fields.InRange, encodeFields]; omega

theorem vredmaxP16 (rd : XNum) (vs : VNum) : Statement (.vredmaxP16 rd vs) := by
  simp only [Statement, Fields.InRange, encodeFields]; omega

theorem vredminP16 (rd : XNum) (vs : VNum) : Statement (.vredminP16 rd vs) := by
  simp only [Statement, Fields.InRange, encodeFields]; omega

theorem vdotP16 (rd : XNum) (vs1 : VNum) (vs2 : VNum) : Statement (.vdotP16 rd vs1 vs2) := by
  simp only [Statement, Fields.InRange, encodeFields]; omega

theorem vmseqP16 (md : MNum) (vs1 : VNum) (vs2 : VNum) : Statement (.vmseqP16 md vs1 vs2) := by
  simp only [Statement, Fields.InRange, encodeFields]; omega

theorem vmsneP16 (md : MNum) (vs1 : VNum) (vs2 : VNum) : Statement (.vmsneP16 md vs1 vs2) := by
  simp only [Statement, Fields.InRange, encodeFields]; omega

theorem vmsltP16 (md : MNum) (vs1 : VNum) (vs2 : VNum) : Statement (.vmsltP16 md vs1 vs2) := by
  simp only [Statement, Fields.InRange, encodeFields]; omega

theorem vmsleP16 (md : MNum) (vs1 : VNum) (vs2 : VNum) : Statement (.vmsleP16 md vs1 vs2) := by
  simp only [Statement, Fields.InRange, encodeFields]; omega

theorem vmsgtP16 (md : MNum) (vs1 : VNum) (vs2 : VNum) : Statement (.vmsgtP16 md vs1 vs2) := by
  simp only [Statement, Fields.InRange, encodeFields]; omega

theorem vmsgeP16 (md : MNum) (vs1 : VNum) (vs2 : VNum) : Statement (.vmsgeP16 md vs1 vs2) := by
  simp only [Statement, Fields.InRange, encodeFields]; omega

theorem vfaddF16 (vd : VNum) (vs1 : VNum) (vs2 : VNum) : Statement (.vfaddF16 vd vs1 vs2) := by
  simp only [Statement, Fields.InRange, encodeFields]; omega

theorem vfaddF28 (vd : VNum) (vs1 : VNum) (vs2 : VNum) : Statement (.vfaddF28 vd vs1 vs2) := by
  simp only [Statement, Fields.InRange, encodeFields]; omega

theorem vfsubF16 (vd : VNum) (vs1 : VNum) (vs2 : VNum) : Statement (.vfsubF16 vd vs1 vs2) := by
  simp only [Statement, Fields.InRange, encodeFields]; omega

theorem vfsubF28 (vd : VNum) (vs1 : VNum) (vs2 : VNum) : Statement (.vfsubF28 vd vs1 vs2) := by
  simp only [Statement, Fields.InRange, encodeFields]; omega

theorem vfmulF16 (vd : VNum) (vs1 : VNum) (vs2 : VNum) : Statement (.vfmulF16 vd vs1 vs2) := by
  simp only [Statement, Fields.InRange, encodeFields]; omega

theorem vfmulF28 (vd : VNum) (vs1 : VNum) (vs2 : VNum) : Statement (.vfmulF28 vd vs1 vs2) := by
  simp only [Statement, Fields.InRange, encodeFields]; omega

theorem vfdivF16 (vd : VNum) (vs1 : VNum) (vs2 : VNum) : Statement (.vfdivF16 vd vs1 vs2) := by
  simp only [Statement, Fields.InRange, encodeFields]; omega

theorem vfdivF28 (vd : VNum) (vs1 : VNum) (vs2 : VNum) : Statement (.vfdivF28 vd vs1 vs2) := by
  simp only [Statement, Fields.InRange, encodeFields]; omega

theorem vfmaddF16 (vd : VNum) (vs1 : VNum) (vs2 : VNum) (vs3 : VNum) : Statement (.vfmaddF16 vd vs1 vs2 vs3) := by
  simp only [Statement, Fields.InRange, encodeFields]; omega

theorem vfmsubF16 (vd : VNum) (vs1 : VNum) (vs2 : VNum) (vs3 : VNum) : Statement (.vfmsubF16 vd vs1 vs2 vs3) := by
  simp only [Statement, Fields.InRange, encodeFields]; omega

theorem vfnmaddF16 (vd : VNum) (vs1 : VNum) (vs2 : VNum) (vs3 : VNum) : Statement (.vfnmaddF16 vd vs1 vs2 vs3) := by
  simp only [Statement, Fields.InRange, encodeFields]; omega

theorem vfsqrtF16 (vd : VNum) (vs : VNum) : Statement (.vfsqrtF16 vd vs) := by
  simp only [Statement, Fields.InRange, encodeFields]; omega

theorem vfrcpF16 (vd : VNum) (vs : VNum) : Statement (.vfrcpF16 vd vs) := by
  simp only [Statement, Fields.InRange, encodeFields]; omega

theorem vfrsqrtF16 (vd : VNum) (vs : VNum) : Statement (.vfrsqrtF16 vd vs) := by
  simp only [Statement, Fields.InRange, encodeFields]; omega

theorem vfminF16 (vd : VNum) (vs1 : VNum) (vs2 : VNum) : Statement (.vfminF16 vd vs1 vs2) := by
  simp only [Statement, Fields.InRange, encodeFields]; omega

theorem vfmaxF16 (vd : VNum) (vs1 : VNum) (vs2 : VNum) : Statement (.vfmaxF16 vd vs1 vs2) := by
  simp only [Statement, Fields.InRange, encodeFields]; omega

theorem vfabsF16 (vd : VNum) (vs : VNum) : Statement (.vfabsF16 vd vs) := by
  simp only [Statement, Fields.InRange, encodeFields]; omega

theorem vfnegF16 (vd : VNum) (vs : VNum) : Statement (.vfnegF16 vd vs) := by
  simp only [Statement, Fields.InRange, encodeFields]; omega

theorem vreluP16 (vd : VNum) (vs : VNum) : Statement (.vreluP16 vd vs) := by
  simp only [Statement, Fields.InRange, encodeFields]; omega

theorem vreluF16 (vd : VNum) (vs : VNum) : Statement (.vreluF16 vd vs) := by
  simp only [Statement, Fields.InRange, encodeFields]; omega

theorem vlreluP16 (vd : VNum) (vs : VNum) (imm : Int) : Statement (.vlreluP16 vd vs imm) := by
  simp only [Statement, Fields.InRange, encodeFields]; omega

theorem vsigmoidF16 (vd : VNum) (vs : VNum) : Statement (.vsigmoidF16 vd vs) := by
  simp only [Statement, Fields.InRange, encodeFields]; omega

theorem vtanhF16 (vd : VNum) (vs : VNum) : Statement (.vtanhF16 vd vs) := by
  simp only [Statement, Fields.InRange, encodeFields]; omega

theorem vexpF16 (vd : VNum) (vs : VNum) : Statement (.vexpF16 vd vs) := by
  simp only [Statement, Fields.InRange, encodeFields]; omega

theorem vredsumF16 (rd : XNum) (vs : VNum) : Statement (.vredsumF16 rd vs) := by
  simp only [Statement, Fields.InRange, encodeFields]; omega

theorem vfdivVxF16 (vd : VNum) (vs : VNum) (rs : XNum) : Statement (.vfdivVxF16 vd vs rs) := by
  simp only [Statement, Fields.InRange, encodeFields]; omega

theorem vquant5P16 (vd : VNum) (vs : VNum) (imm : Int) : Statement (.vquant5P16 vd vs imm) := by
  simp only [Statement, Fields.InRange, encodeFields]; omega

theorem vdequant5F16 (vd : VNum) (vs : VNum) (imm : Int) : Statement (.vdequant5F16 vd vs imm) := by
  simp only [Statement, Fields.InRange, encodeFields]; omega

theorem vquant25P16 (vd : VNum) (vs : VNum) (imm : Int) : Statement (.vquant25P16 vd vs imm) := by
  simp only [Statement, Fields.InRange, encodeFields]; omega

theorem vmaxpool2P16 (vd : VNum) (vs : VNum) : Statement (.vmaxpool2P16 vd vs) := by
  simp only [Statement, Fields.InRange, encodeFields]; omega

theorem vavgpool2P16 (vd : VNum) (vs : VNum) : Statement (.vavgpool2P16 vd vs) := by
  simp only [Statement, Fields.InRange, encodeFields]; omega

theorem vgavgpoolP16 (rd : XNum) (vs : VNum) : Statement (.vgavgpoolP16 rd vs) := by
  simp only [Statement, Fields.InRange, encodeFields]; omega

theorem vmatvecP16 (vd : VNum) (base : GNum) (vs : VNum) : Statement (.vmatvecP16 vd base vs) := by
  simp only [Statement, Fields.InRange, encodeFields]; omega

theorem vouterP16 (base : GNum) (vs1 : VNum) (vs2 : VNum) : Statement (.vouterP16 base vs1 vs2) := by
  simp only [Statement, Fields.InRange, encodeFields]; omega

theorem vmmcrossP16 (vd : VNum) (vs : VNum) (imm : Int) : Statement (.vmmcrossP16 vd vs imm) := by
  simp only [Statement, Fields.InRange, encodeFields]; omega

theorem vldP16 (vd : VNum) (rs : XNum) : Statement (.vldP16 vd rs) := by
  simp only [Statement, Fields.InRange, encodeFields]; omega

theorem vldP28 (vd : VNum) (rs : XNum) : Statement (.vldP28 vd rs) := by
  simp only [Statement, Fields.InRange, encodeFields]; omega

theorem vldF16 (vd : VNum) (rs : XNum) : Statement (.vldF16 vd rs) := by
  simp only [Statement, Fields.InRange, encodeFields]; omega

theorem vstP16 (vs : VNum) (rd : XNum) : Statement (.vstP16 vs rd) := by
  simp only [Statement, Fields.InRange, encodeFields]; omega

theorem vstP28 (vs : VNum) (rd : XNum) : Statement (.vstP28 vs rd) := by
  simp only [Statement, Fields.InRange, encodeFields]; omega

theorem vstF16 (vs : VNum) (rd : XNum) : Statement (.vstF16 vs rd) := by
  simp only [Statement, Fields.InRange, encodeFields]; omega

theorem vldsP16 (vd : VNum) (rs : XNum) (rt : XNum) : Statement (.vldsP16 vd rs rt) := by
  simp only [Statement, Fields.InRange, encodeFields]; omega

theorem vstsP16 (vs : VNum) (rd : XNum) (rt : XNum) : Statement (.vstsP16 vs rd rt) := by
  simp only [Statement, Fields.InRange, encodeFields]; omega

theorem vldiP16 (vd : VNum) (rs : XNum) (vi : VNum) : Statement (.vldiP16 vd rs vi) := by
  simp only [Statement, Fields.InRange, encodeFields]; omega

theorem vstiP16 (vs : VNum) (rd : XNum) (vi : VNum) : Statement (.vstiP16 vs rd vi) := by
  simp only [Statement, Fields.InRange, encodeFields]; omega

theorem vlseg2P16 (vd : VNum) (rs : XNum) : Statement (.vlseg2P16 vd rs) := by
  simp only [Statement, Fields.InRange, encodeFields]; omega

theorem vlseg3P16 (vd : VNum) (rs : XNum) : Statement (.vlseg3P16 vd rs) := by
  simp only [Statement, Fields.InRange, encodeFields]; omega

theorem vlseg4P16 (vd : VNum) (rs : XNum) : Statement (.vlseg4P16 vd rs) := by
  simp only [Statement, Fields.InRange, encodeFields]; omega

theorem vsseg2P16 (vs : VNum) (rd : XNum) : Statement (.vsseg2P16 vs rd) := by
  simp only [Statement, Fields.InRange, encodeFields]; omega

theorem vaddP16M (vd : VNum) (vs1 : VNum) (vs2 : VNum) (vm : MNum) : Statement (.vaddP16M vd vs1 vs2 vm) := by
  simp only [Statement, Fields.InRange, encodeFields]; omega

theorem vldP16M (vd : VNum) (rs : XNum) (vm : MNum) : Statement (.vldP16M vd rs vm) := by
  simp only [Statement, Fields.InRange, encodeFields]; omega

theorem vstP16M (vs : VNum) (rd : XNum) (vm : MNum) : Statement (.vstP16M vs rd vm) := by
  simp only [Statement, Fields.InRange, encodeFields]; omega

theorem vmpopc (rd : XNum) (ma : MNum) : Statement (.vmpopc rd ma) := by
  simp only [Statement, Fields.InRange, encodeFields]; omega

theorem vmffs (rd : XNum) (ma : MNum) : Statement (.vmffs rd ma) := by
  simp only [Statement, Fields.InRange, encodeFields]; omega

theorem vmand (md : MNum) (ma : MNum) (mb : MNum) : Statement (.vmand md ma mb) := by
  simp only [Statement, Fields.InRange, encodeFields]; omega

theorem vmor (md : MNum) (ma : MNum) (mb : MNum) : Statement (.vmor md ma mb) := by
  simp only [Statement, Fields.InRange, encodeFields]; omega

theorem vmxor (md : MNum) (ma : MNum) (mb : MNum) : Statement (.vmxor md ma mb) := by
  simp only [Statement, Fields.InRange, encodeFields]; omega

theorem vmnot (md : MNum) (ma : MNum) : Statement (.vmnot md ma) := by
  simp only [Statement, Fields.InRange, encodeFields]; omega

theorem vpermP16 (vd : VNum) (vs : VNum) (vi : VNum) : Statement (.vpermP16 vd vs vi) := by
  simp only [Statement, Fields.InRange, encodeFields]; omega

theorem vrevP16 (vd : VNum) (vs : VNum) : Statement (.vrevP16 vd vs) := by
  simp only [Statement, Fields.InRange, encodeFields]; omega

theorem vrotP16 (vd : VNum) (vs : VNum) (imm : Int) : Statement (.vrotP16 vd vs imm) := by
  simp only [Statement, Fields.InRange, encodeFields]; omega

theorem vzipP16 (vd1 : VNum) (vd2 : VNum) (vs1 : VNum) (vs2 : VNum) : Statement (.vzipP16 vd1 vd2 vs1 vs2) := by
  simp only [Statement, Fields.InRange, encodeFields]; omega

theorem vunzipP16 (vd1 : VNum) (vd2 : VNum) (vs1 : VNum) (vs2 : VNum) : Statement (.vunzipP16 vd1 vd2 vs1 vs2) := by
  simp only [Statement, Fields.InRange, encodeFields]; omega

theorem vbroadcastP16 (vd : VNum) (rs : XNum) : Statement (.vbroadcastP16 vd rs) := by
  simp only [Statement, Fields.InRange, encodeFields]; omega

theorem vextractP16 (rd : XNum) (vs : VNum) (imm : Int) : Statement (.vextractP16 rd vs imm) := by
  simp only [Statement, Fields.InRange, encodeFields]; omega

theorem vinsertP16 (vd : VNum) (rs : XNum) (imm : Int) : Statement (.vinsertP16 vd rs imm) := by
  simp only [Statement, Fields.InRange, encodeFields]; omega

end Laws.FieldsInRange

/-- The family, for every instruction. -/
theorem encodeFields_inRange (i : Instr) : (encodeFields i).InRange := by
  cases i
  · exact Laws.FieldsInRange.setvl _ _
  · exact Laws.FieldsInRange.setvli _ _
  · exact Laws.FieldsInRange.vsettype _
  · exact Laws.FieldsInRange.vgetcfg _
  · exact Laws.FieldsInRange.vaddP16 _ _ _
  · exact Laws.FieldsInRange.vaddP28 _ _ _
  · exact Laws.FieldsInRange.vaddP14 _ _ _
  · exact Laws.FieldsInRange.vsubP16 _ _ _
  · exact Laws.FieldsInRange.vsubP28 _ _ _
  · exact Laws.FieldsInRange.vnegP16 _ _
  · exact Laws.FieldsInRange.vmulP16 _ _ _
  · exact Laws.FieldsInRange.vwmulP16 _ _ _ _
  · exact Laws.FieldsInRange.vdivP16 _ _ _
  · exact Laws.FieldsInRange.vmodP16 _ _ _
  · exact Laws.FieldsInRange.vaddVxP16 _ _ _
  · exact Laws.FieldsInRange.vaddViP16 _ _ _
  · exact Laws.FieldsInRange.vmulVxP16 _ _ _
  · exact Laws.FieldsInRange.vmulViP16 _ _ _
  · exact Laws.FieldsInRange.vredsumP16 _ _
  · exact Laws.FieldsInRange.vredmaxP16 _ _
  · exact Laws.FieldsInRange.vredminP16 _ _
  · exact Laws.FieldsInRange.vdotP16 _ _ _
  · exact Laws.FieldsInRange.vmseqP16 _ _ _
  · exact Laws.FieldsInRange.vmsneP16 _ _ _
  · exact Laws.FieldsInRange.vmsltP16 _ _ _
  · exact Laws.FieldsInRange.vmsleP16 _ _ _
  · exact Laws.FieldsInRange.vmsgtP16 _ _ _
  · exact Laws.FieldsInRange.vmsgeP16 _ _ _
  · exact Laws.FieldsInRange.vfaddF16 _ _ _
  · exact Laws.FieldsInRange.vfaddF28 _ _ _
  · exact Laws.FieldsInRange.vfsubF16 _ _ _
  · exact Laws.FieldsInRange.vfsubF28 _ _ _
  · exact Laws.FieldsInRange.vfmulF16 _ _ _
  · exact Laws.FieldsInRange.vfmulF28 _ _ _
  · exact Laws.FieldsInRange.vfdivF16 _ _ _
  · exact Laws.FieldsInRange.vfdivF28 _ _ _
  · exact Laws.FieldsInRange.vfmaddF16 _ _ _ _
  · exact Laws.FieldsInRange.vfmsubF16 _ _ _ _
  · exact Laws.FieldsInRange.vfnmaddF16 _ _ _ _
  · exact Laws.FieldsInRange.vfsqrtF16 _ _
  · exact Laws.FieldsInRange.vfrcpF16 _ _
  · exact Laws.FieldsInRange.vfrsqrtF16 _ _
  · exact Laws.FieldsInRange.vfminF16 _ _ _
  · exact Laws.FieldsInRange.vfmaxF16 _ _ _
  · exact Laws.FieldsInRange.vfabsF16 _ _
  · exact Laws.FieldsInRange.vfnegF16 _ _
  · exact Laws.FieldsInRange.vreluP16 _ _
  · exact Laws.FieldsInRange.vreluF16 _ _
  · exact Laws.FieldsInRange.vlreluP16 _ _ _
  · exact Laws.FieldsInRange.vsigmoidF16 _ _
  · exact Laws.FieldsInRange.vtanhF16 _ _
  · exact Laws.FieldsInRange.vexpF16 _ _
  · exact Laws.FieldsInRange.vredsumF16 _ _
  · exact Laws.FieldsInRange.vfdivVxF16 _ _ _
  · exact Laws.FieldsInRange.vquant5P16 _ _ _
  · exact Laws.FieldsInRange.vdequant5F16 _ _ _
  · exact Laws.FieldsInRange.vquant25P16 _ _ _
  · exact Laws.FieldsInRange.vmaxpool2P16 _ _
  · exact Laws.FieldsInRange.vavgpool2P16 _ _
  · exact Laws.FieldsInRange.vgavgpoolP16 _ _
  · exact Laws.FieldsInRange.vmatvecP16 _ _ _
  · exact Laws.FieldsInRange.vouterP16 _ _ _
  · exact Laws.FieldsInRange.vmmcrossP16 _ _ _
  · exact Laws.FieldsInRange.vldP16 _ _
  · exact Laws.FieldsInRange.vldP28 _ _
  · exact Laws.FieldsInRange.vldF16 _ _
  · exact Laws.FieldsInRange.vstP16 _ _
  · exact Laws.FieldsInRange.vstP28 _ _
  · exact Laws.FieldsInRange.vstF16 _ _
  · exact Laws.FieldsInRange.vldsP16 _ _ _
  · exact Laws.FieldsInRange.vstsP16 _ _ _
  · exact Laws.FieldsInRange.vldiP16 _ _ _
  · exact Laws.FieldsInRange.vstiP16 _ _ _
  · exact Laws.FieldsInRange.vlseg2P16 _ _
  · exact Laws.FieldsInRange.vlseg3P16 _ _
  · exact Laws.FieldsInRange.vlseg4P16 _ _
  · exact Laws.FieldsInRange.vsseg2P16 _ _
  · exact Laws.FieldsInRange.vaddP16M _ _ _ _
  · exact Laws.FieldsInRange.vldP16M _ _ _
  · exact Laws.FieldsInRange.vstP16M _ _ _
  · exact Laws.FieldsInRange.vmpopc _ _
  · exact Laws.FieldsInRange.vmffs _ _
  · exact Laws.FieldsInRange.vmand _ _ _
  · exact Laws.FieldsInRange.vmor _ _ _
  · exact Laws.FieldsInRange.vmxor _ _ _
  · exact Laws.FieldsInRange.vmnot _ _
  · exact Laws.FieldsInRange.vpermP16 _ _ _
  · exact Laws.FieldsInRange.vrevP16 _ _
  · exact Laws.FieldsInRange.vrotP16 _ _ _
  · exact Laws.FieldsInRange.vzipP16 _ _ _ _
  · exact Laws.FieldsInRange.vunzipP16 _ _ _ _
  · exact Laws.FieldsInRange.vbroadcastP16 _ _
  · exact Laws.FieldsInRange.vextractP16 _ _ _
  · exact Laws.FieldsInRange.vinsertP16 _ _ _

end Sys2Proof
end

