-- ==== Sys2Proof/Laws/Encoding.lean ====
section
/-! SUPPORT. Words and fields: the fields of a word read back from the word of the fields, and the other way
round; when each operand reading answers. -/

namespace Sys2Proof

open Sys2Proof.Machine

/-! ## Codes -/

theorem Pent.ofCode_code (d : Pent) (v : Nat) : Pent.ofCode (d.code + 5 * v) = d := by
  unfold Pent.ofCode
  have : (d.code + 5 * v) % 5 = d.code := by have : d.code < 5 := by cases d <;> decide
                                             omega
  rw [this]; cases d <;> rfl

/-- R81: the code pents of the number that a string spells are that string. -/
theorem codePents_codeNum (l : List Pent) : codePents l.length (codeNum l) = l := by
  induction l with
  | nil => rfl
  | cons d ds ih =>
    have hd : d.code < 5 := by cases d <;> decide
    have e : (d.code + 5 * codeNum ds) / 5 = codeNum ds := by omega
    simp only [List.length_cons, codeNum, codePents, Pent.ofCode_code, e, ih]

theorem codeNum_lt (l : List Pent) : codeNum l < 5 ^ l.length := by
  induction l with
  | nil => simp [codeNum]
  | cons d ds ih =>
    have hd : d.code < 5 := by cases d <;> decide
    simp only [List.length_cons, codeNum, pow_succ]; omega

/-! ## Fields of a word -/

theorem toWord_toList (f : Fields) :
    f.toWord.toList = f.extra.toList ++ codePents 1 f.func ++ codePents 1 f.width ++ codePents 2 f.vm
      ++ codePents 3 f.vs2 ++ codePents 3 f.vs1 ++ codePents 3 f.vd ++ codePents 2 f.vop := rfl

/-- A field reads the pents that lie there. -/
theorem field_of_append {w : InstrWord} {pre mid post : List Pent} (h : w.toList = pre ++ (mid ++ post)) :
    field w pre.length mid.length = codeNum mid := by
  unfold field
  rw [h, List.drop_left, List.take_left]

/-- R80: the fields of the word of some fields are those fields. -/
theorem ofWord_toWord (f : Fields) (h : f.InRange) : Fields.ofWord f.toWord = f := by
  obtain ⟨h1, h2, h3, h4, h5, h6, h7⟩ := h
  have hl := toWord_toList f
  simp only [List.append_assoc] at hl
  have he : f.extra.toList.length = 9 := by simp
  have go : ∀ (pre mid post : List Pent) (lo len v : Nat), f.toWord.toList = pre ++ (mid ++ post) →
      pre.length = lo → mid = codePents len v → v < 5 ^ len → field f.toWord lo len = v := by
    intro pre mid post lo len v hw hp hm hv
    have := field_of_append hw
    rw [hp, hm, codePents_length] at this
    rw [this, codeNum_codePents _ _ hv]
  have e1 : field f.toWord 22 2 = f.vop := by
    refine go (f.extra.toList ++ codePents 1 f.func ++ codePents 1 f.width ++ codePents 2 f.vm
      ++ codePents 3 f.vs2 ++ codePents 3 f.vs1 ++ codePents 3 f.vd) _ [] 22 2 _ ?_ ?_ rfl (by omega)
    · simp only [List.append_assoc, List.append_nil]; exact hl
    · simp [codePents_length]
  have e2 : field f.toWord 19 3 = f.vd := by
    refine go (f.extra.toList ++ codePents 1 f.func ++ codePents 1 f.width ++ codePents 2 f.vm
      ++ codePents 3 f.vs2 ++ codePents 3 f.vs1) _ (codePents 2 f.vop)
      19 3 _ ?_ ?_ rfl (by omega)
    · simp only [List.append_assoc]; exact hl
    · simp [codePents_length]
  have e3 : field f.toWord 16 3 = f.vs1 := by
    refine go (f.extra.toList ++ codePents 1 f.func ++ codePents 1 f.width ++ codePents 2 f.vm
      ++ codePents 3 f.vs2) _ (codePents 3 f.vd ++ codePents 2 f.vop)
      16 3 _ ?_ ?_ rfl (by omega)
    · simp only [List.append_assoc]; exact hl
    · simp [codePents_length]
  have e4 : field f.toWord 13 3 = f.vs2 := by
    refine go (f.extra.toList ++ codePents 1 f.func ++ codePents 1 f.width ++ codePents 2 f.vm) _ (codePents 3 f.vs1 ++ (codePents 3 f.vd ++ codePents 2 f.vop))
      13 3 _ ?_ ?_
      rfl (by omega)
    · simp only [List.append_assoc]; exact hl
    · simp [codePents_length]
  have e5 : field f.toWord 11 2 = f.vm := by
    refine go (f.extra.toList ++ codePents 1 f.func ++ codePents 1 f.width) _ (codePents 3 f.vs2 ++ (codePents 3 f.vs1 ++ (codePents 3 f.vd ++ codePents 2 f.vop)))
      11 2 _ ?_ ?_ rfl (by omega)
    · simp only [List.append_assoc]; exact hl
    · simp [codePents_length]
  have e6 : field f.toWord 10 1 = f.width := by
    refine go (f.extra.toList ++ codePents 1 f.func) _ (codePents 2 f.vm ++ (codePents 3 f.vs2 ++ (codePents 3 f.vs1 ++ (codePents 3 f.vd ++ codePents 2 f.vop))))
      10 1 _ ?_ ?_ rfl (by omega)
    · simp only [List.append_assoc]; exact hl
    · simp [codePents_length]
  have e7 : field f.toWord 9 1 = f.func := go f.extra.toList _ _ 9 1 _ hl he rfl (by omega)
  have e8 : (tabulate 9 fun k => (f.toWord[k]?).getD .zero) = f.extra := by
    apply Vector.ext
    intro k hk
    rw [tabulate_getElem]
    have : f.toWord[k]? = f.toWord.toList[k]? := by simp
    rw [this, hl, List.getElem?_append_left (by rw [he]; exact hk)]
    simp [hk]
  cases f
  simp only [Fields.ofWord, Fields.mk.injEq]
  exact ⟨e1, e2, e3, e4, e5, e6, e7, e8⟩

/-- R80: a word is the word of its fields. -/
theorem toWord_ofWord (w : InstrWord) : (Fields.ofWord w).toWord = w := by
  apply Vector.toList_inj.mp
  have hn : w.toList.length = 24 := by simp
  have hx : (Fields.ofWord w).extra.toList = w.toList.take 9 := by
    apply List.ext_getElem?
    intro k
    by_cases hk : k < 9
    · rw [List.getElem?_take_of_lt hk]
      simp [Fields.ofWord, hk, show k < 24 by omega]
    · rw [List.getElem?_eq_none (by simp; omega), List.getElem?_eq_none (by simp; omega)]
  have cp : ∀ lo len, lo + len ≤ 24 → codePents len (field w lo len) = (w.toList.drop lo).take len := by
    intro lo len h
    have := codePents_codeNum ((w.toList.drop lo).take len)
    rwa [List.length_take, List.length_drop, hn, Nat.min_eq_left (by omega)] at this
  have join : ∀ lo len, lo + len ≤ 24 →
      w.toList.take lo ++ (w.toList.drop lo).take len = w.toList.take (lo + len) := by
    intro lo len _
    rw [List.take_add]
  rw [toWord_toList, hx]
  show w.toList.take 9 ++ codePents 1 (field w 9 1) ++ codePents 1 (field w 10 1) ++ codePents 2 (field w 11 2)
    ++ codePents 3 (field w 13 3) ++ codePents 3 (field w 16 3) ++ codePents 3 (field w 19 3)
    ++ codePents 2 (field w 22 2) = w.toList
  rw [cp 9 1 (by omega), cp 10 1 (by omega), cp 11 2 (by omega), cp 13 3 (by omega), cp 16 3 (by omega),
    cp 19 3 (by omega), cp 22 2 (by omega), join 9 1 (by omega), join 10 1 (by omega), join 11 2 (by omega),
    join 13 3 (by omega), join 16 3 (by omega), join 19 3 (by omega), join 22 2 (by omega)]
  exact List.take_of_length_le (by omega)

theorem field_lt (w : InstrWord) (lo len : Nat) : field w lo len < 5 ^ len :=
  lt_of_lt_of_le (codeNum_lt _) (Nat.pow_le_pow_right (by decide) (by simp))

/-! ## Operands -/

theorem regNum_ok {b n : Nat} {r : Fin b} : regNum b n = .ok r ↔ n = r := by
  unfold regNum
  split
  · next h => rw [Except.ok.injEq, Fin.ext_iff]
  · next h => exact ⟨fun h' => (nomatch h'), fun h' => by omega⟩

theorem unused_ok {n : Nat} {x : Unit} : unused n = .ok x ↔ n = 0 := by
  unfold unused; split <;> simp_all

theorem noMask_ok {f : Fields} {x : Unit} : noMask f = .ok x ↔ f.vm = 0 := by
  unfold noMask; split <;> simp_all

theorem noExtra_ok {f : Fields} {x : Unit} : noExtra f = .ok x ↔ f.extra = zeroExtra := by
  unfold noExtra; split <;> simp_all

theorem maskOf_ok {f : Fields} {k : MNum} : maskOf f = .ok k ↔ f.vm = k + 1 := by
  unfold maskOf
  split
  · next h => rw [Except.ok.injEq, Fin.ext_iff]; show f.vm - 1 = k ↔ f.vm = k + 1; omega
  · next h => exact ⟨fun h' => (nomatch h'), fun h' => by omega⟩

/-- R82: an immediate in range reads back from its string. -/
theorem immOf_immExtra {imm : Int} (h : immOk imm = true) : ival (immExtra imm) = imm := by
  simp only [immOk, Bool.and_eq_true, decide_eq_true_eq] at h
  have hh : half 9 = 976562 := by decide
  rw [immExtra, ival_strOf, wrap_of_range] <;> omega

/-- R82: what Extra spells is in range, and its string is Extra. -/
theorem immOf_ok (e : Pat 9) : immOk (ival e) = true ∧ immExtra (ival e) = e := by
  have h := ival_bounds e
  have hh : half 9 = 976562 := by decide
  rw [hh] at h
  exact ⟨by simp only [immOk, Bool.and_eq_true, decide_eq_true_eq]; omega, strOf_ival e⟩

/-- R86: a register number in Extra reads back, and only its own string reads as it. -/
theorem extraReg_ok {f : Fields} {r : VNum} : extraReg f = .ok r ↔ f.extra = regExtra r := by
  have hsplit : f.extra.toList = f.extra.toList.take 3 ++ f.extra.toList.drop 3 := (List.take_append_drop _ _).symm
  have hr : (regExtra r).toList = codePents 3 r ++ List.replicate 6 Pent.zero := rfl
  unfold extraReg
  constructor
  · intro h
    split at h
    · next hz =>
      rw [regNum_ok] at h
      apply Vector.toList_inj.mp
      rw [hsplit, hr]
      congr 1
      · have := codePents_codeNum (f.extra.toList.take 3)
        rw [h] at this
        rw [← this]; simp
      · apply List.eq_replicate_iff.mpr
        refine ⟨by simp, fun p hp => ?_⟩
        have := List.all_eq_true.mp hz p hp
        simpa using this
    · cases h
  · intro h
    have hl : f.extra.toList = codePents 3 r ++ List.replicate 6 Pent.zero := by rw [h, hr]
    have h3 : f.extra.toList.take 3 = codePents 3 r := by
      rw [hl, List.take_left' (codePents_length 3 r)]
    have h6 : f.extra.toList.drop 3 = List.replicate 6 Pent.zero := by
      rw [hl, List.drop_left' (codePents_length 3 r)]
    rw [h3, h6, if_pos (by decide), regNum_ok, codeNum_codePents _ _ (by have := r.isLt; omega)]

end Sys2Proof
end

