-- ==== Sys2Proof/Laws/State.lean ====
section
/-! SUPPORT. What each update of the state leaves in each field: one lemma per field per update, true by
`rfl`, so that no proof unfolds an update. -/

namespace Sys2Proof.Machine

/-! ## advance -/

@[simp] theorem State.advance_v (s : State) : s.advance.v = s.v := rfl

@[simp] theorem State.advance_vm (s : State) : s.advance.vm = s.vm := rfl

@[simp] theorem State.advance_vl (s : State) : s.advance.vl = s.vl := rfl

@[simp] theorem State.advance_vtype (s : State) : s.advance.vtype = s.vtype := rfl

@[simp] theorem State.advance_x (s : State) : s.advance.x = s.x := rfl

@[simp] theorem State.advance_pc (s : State) : s.advance.pc = s.pc + Config.ilen := rfl

@[simp] theorem State.advance_mem (s : State) : s.advance.mem = s.mem := rfl

@[simp] theorem State.advance_fault (s : State) : s.advance.fault = s.fault := rfl

@[simp] theorem State.advance_memLo (s : State) : s.advance.memLo = s.memLo := rfl

@[simp] theorem State.advance_memHi (s : State) : s.advance.memHi = s.memHi := rfl

@[simp] theorem State.advance_codeLo (s : State) : s.advance.codeLo = s.codeLo := rfl

@[simp] theorem State.advance_codeHi (s : State) : s.advance.codeHi = s.codeHi := rfl

@[simp] theorem State.advance_draws (s : State) : s.advance.draws = s.draws := rfl

/-! ## recordFault -/

@[simp] theorem State.recordFault_v (s : State) (f : Fault) : (s.recordFault f).v = s.v := rfl

@[simp] theorem State.recordFault_vm (s : State) (f : Fault) : (s.recordFault f).vm = s.vm := rfl

@[simp] theorem State.recordFault_vl (s : State) (f : Fault) : (s.recordFault f).vl = s.vl := rfl

@[simp] theorem State.recordFault_vtype (s : State) (f : Fault) : (s.recordFault f).vtype = s.vtype := rfl

@[simp] theorem State.recordFault_x (s : State) (f : Fault) : (s.recordFault f).x = s.x := rfl

@[simp] theorem State.recordFault_pc (s : State) (f : Fault) : (s.recordFault f).pc = s.pc := rfl

@[simp] theorem State.recordFault_mem (s : State) (f : Fault) : (s.recordFault f).mem = s.mem := rfl

@[simp] theorem State.recordFault_fault (s : State) (f : Fault) : (s.recordFault f).fault = some f := rfl

@[simp] theorem State.recordFault_memLo (s : State) (f : Fault) : (s.recordFault f).memLo = s.memLo := rfl

@[simp] theorem State.recordFault_memHi (s : State) (f : Fault) : (s.recordFault f).memHi = s.memHi := rfl

@[simp] theorem State.recordFault_codeLo (s : State) (f : Fault) : (s.recordFault f).codeLo = s.codeLo := rfl

@[simp] theorem State.recordFault_codeHi (s : State) (f : Fault) : (s.recordFault f).codeHi = s.codeHi := rfl

@[simp] theorem State.recordFault_draws (s : State) (f : Fault) : (s.recordFault f).draws = s.draws := rfl

/-! ## setX -/

@[simp] theorem State.setX_v (s : State) (r : XNum) (p : Pat 16) : (s.setX r p).v = s.v := rfl

@[simp] theorem State.setX_vm (s : State) (r : XNum) (p : Pat 16) : (s.setX r p).vm = s.vm := rfl

@[simp] theorem State.setX_vl (s : State) (r : XNum) (p : Pat 16) : (s.setX r p).vl = s.vl := rfl

@[simp] theorem State.setX_vtype (s : State) (r : XNum) (p : Pat 16) : (s.setX r p).vtype = s.vtype := rfl

@[simp] theorem State.setX_x (s : State) (r : XNum) (p : Pat 16) : (s.setX r p).x = s.x.set r (some p) := rfl

@[simp] theorem State.setX_pc (s : State) (r : XNum) (p : Pat 16) : (s.setX r p).pc = s.pc := rfl

@[simp] theorem State.setX_mem (s : State) (r : XNum) (p : Pat 16) : (s.setX r p).mem = s.mem := rfl

@[simp] theorem State.setX_fault (s : State) (r : XNum) (p : Pat 16) : (s.setX r p).fault = s.fault := rfl

@[simp] theorem State.setX_memLo (s : State) (r : XNum) (p : Pat 16) : (s.setX r p).memLo = s.memLo := rfl

@[simp] theorem State.setX_memHi (s : State) (r : XNum) (p : Pat 16) : (s.setX r p).memHi = s.memHi := rfl

@[simp] theorem State.setX_codeLo (s : State) (r : XNum) (p : Pat 16) : (s.setX r p).codeLo = s.codeLo := rfl

@[simp] theorem State.setX_codeHi (s : State) (r : XNum) (p : Pat 16) : (s.setX r p).codeHi = s.codeHi := rfl

@[simp] theorem State.setX_draws (s : State) (r : XNum) (p : Pat 16) : (s.setX r p).draws = s.draws := rfl

/-! ## putX -/

@[simp] theorem State.putX_v (s : State) (r : XNum) (a : Int) : (s.putX r a).v = s.v := rfl

@[simp] theorem State.putX_vm (s : State) (r : XNum) (a : Int) : (s.putX r a).vm = s.vm := rfl

@[simp] theorem State.putX_vl (s : State) (r : XNum) (a : Int) : (s.putX r a).vl = s.vl := rfl

@[simp] theorem State.putX_vtype (s : State) (r : XNum) (a : Int) : (s.putX r a).vtype = s.vtype := rfl

@[simp] theorem State.putX_x (s : State) (r : XNum) (a : Int) : (s.putX r a).x = s.x.set r (some (strOf 16 a)) := rfl

@[simp] theorem State.putX_pc (s : State) (r : XNum) (a : Int) : (s.putX r a).pc = s.pc := rfl

@[simp] theorem State.putX_mem (s : State) (r : XNum) (a : Int) : (s.putX r a).mem = s.mem := rfl

@[simp] theorem State.putX_fault (s : State) (r : XNum) (a : Int) : (s.putX r a).fault = s.fault := rfl

@[simp] theorem State.putX_memLo (s : State) (r : XNum) (a : Int) : (s.putX r a).memLo = s.memLo := rfl

@[simp] theorem State.putX_memHi (s : State) (r : XNum) (a : Int) : (s.putX r a).memHi = s.memHi := rfl

@[simp] theorem State.putX_codeLo (s : State) (r : XNum) (a : Int) : (s.putX r a).codeLo = s.codeLo := rfl

@[simp] theorem State.putX_codeHi (s : State) (r : XNum) (a : Int) : (s.putX r a).codeHi = s.codeHi := rfl

@[simp] theorem State.putX_draws (s : State) (r : XNum) (a : Int) : (s.putX r a).draws = s.draws := rfl

/-! ## putElems -/

@[simp] theorem State.putElems_vm (s : State) (n : VNum) (t : EType) (val : Nat → Option (Pat (ew t))) : (s.putElems n t val).vm = s.vm := rfl

@[simp] theorem State.putElems_vl (s : State) (n : VNum) (t : EType) (val : Nat → Option (Pat (ew t))) : (s.putElems n t val).vl = s.vl := rfl

@[simp] theorem State.putElems_vtype (s : State) (n : VNum) (t : EType) (val : Nat → Option (Pat (ew t))) : (s.putElems n t val).vtype = s.vtype := rfl

@[simp] theorem State.putElems_x (s : State) (n : VNum) (t : EType) (val : Nat → Option (Pat (ew t))) : (s.putElems n t val).x = s.x := rfl

@[simp] theorem State.putElems_pc (s : State) (n : VNum) (t : EType) (val : Nat → Option (Pat (ew t))) : (s.putElems n t val).pc = s.pc := rfl

@[simp] theorem State.putElems_mem (s : State) (n : VNum) (t : EType) (val : Nat → Option (Pat (ew t))) : (s.putElems n t val).mem = s.mem := rfl

@[simp] theorem State.putElems_fault (s : State) (n : VNum) (t : EType) (val : Nat → Option (Pat (ew t))) : (s.putElems n t val).fault = s.fault := rfl

@[simp] theorem State.putElems_memLo (s : State) (n : VNum) (t : EType) (val : Nat → Option (Pat (ew t))) : (s.putElems n t val).memLo = s.memLo := rfl

@[simp] theorem State.putElems_memHi (s : State) (n : VNum) (t : EType) (val : Nat → Option (Pat (ew t))) : (s.putElems n t val).memHi = s.memHi := rfl

@[simp] theorem State.putElems_codeLo (s : State) (n : VNum) (t : EType) (val : Nat → Option (Pat (ew t))) : (s.putElems n t val).codeLo = s.codeLo := rfl

@[simp] theorem State.putElems_codeHi (s : State) (n : VNum) (t : EType) (val : Nat → Option (Pat (ew t))) : (s.putElems n t val).codeHi = s.codeHi := rfl

@[simp] theorem State.putElems_draws (s : State) (n : VNum) (t : EType) (val : Nat → Option (Pat (ew t))) : (s.putElems n t val).draws = s.draws := rfl

/-! ## putMask -/

@[simp] theorem State.putMask_v (s : State) (k : MNum) (val : Nat → Option Bool) : (s.putMask k val).v = s.v := rfl

@[simp] theorem State.putMask_vl (s : State) (k : MNum) (val : Nat → Option Bool) : (s.putMask k val).vl = s.vl := rfl

@[simp] theorem State.putMask_vtype (s : State) (k : MNum) (val : Nat → Option Bool) : (s.putMask k val).vtype = s.vtype := rfl

@[simp] theorem State.putMask_x (s : State) (k : MNum) (val : Nat → Option Bool) : (s.putMask k val).x = s.x := rfl

@[simp] theorem State.putMask_pc (s : State) (k : MNum) (val : Nat → Option Bool) : (s.putMask k val).pc = s.pc := rfl

@[simp] theorem State.putMask_mem (s : State) (k : MNum) (val : Nat → Option Bool) : (s.putMask k val).mem = s.mem := rfl

@[simp] theorem State.putMask_fault (s : State) (k : MNum) (val : Nat → Option Bool) : (s.putMask k val).fault = s.fault := rfl

@[simp] theorem State.putMask_memLo (s : State) (k : MNum) (val : Nat → Option Bool) : (s.putMask k val).memLo = s.memLo := rfl

@[simp] theorem State.putMask_memHi (s : State) (k : MNum) (val : Nat → Option Bool) : (s.putMask k val).memHi = s.memHi := rfl

@[simp] theorem State.putMask_codeLo (s : State) (k : MNum) (val : Nat → Option Bool) : (s.putMask k val).codeLo = s.codeLo := rfl

@[simp] theorem State.putMask_codeHi (s : State) (k : MNum) (val : Nat → Option Bool) : (s.putMask k val).codeHi = s.codeHi := rfl

@[simp] theorem State.putMask_draws (s : State) (k : MNum) (val : Nat → Option Bool) : (s.putMask k val).draws = s.draws := rfl

/-! ## loadWord -/

@[simp] theorem State.loadWord_v (s : State) (w : InstrWord) : (s.loadWord w).v = s.v := rfl

@[simp] theorem State.loadWord_vm (s : State) (w : InstrWord) : (s.loadWord w).vm = s.vm := rfl

@[simp] theorem State.loadWord_vl (s : State) (w : InstrWord) : (s.loadWord w).vl = s.vl := rfl

@[simp] theorem State.loadWord_vtype (s : State) (w : InstrWord) : (s.loadWord w).vtype = s.vtype := rfl

@[simp] theorem State.loadWord_x (s : State) (w : InstrWord) : (s.loadWord w).x = s.x := rfl

@[simp] theorem State.loadWord_pc (s : State) (w : InstrWord) : (s.loadWord w).pc = s.pc := rfl

@[simp] theorem State.loadWord_mem (s : State) (w : InstrWord) : (s.loadWord w).mem = writePents s.mem s.pc w.toList := rfl

@[simp] theorem State.loadWord_fault (s : State) (w : InstrWord) : (s.loadWord w).fault = none := rfl

@[simp] theorem State.loadWord_memLo (s : State) (w : InstrWord) : (s.loadWord w).memLo = min s.memLo s.pc := rfl

@[simp] theorem State.loadWord_memHi (s : State) (w : InstrWord) : (s.loadWord w).memHi = max s.memHi (s.pc + Config.ilen) := rfl

@[simp] theorem State.loadWord_codeHi (s : State) (w : InstrWord) : (s.loadWord w).codeHi = max s.codeHi (s.pc + Config.ilen) := rfl

@[simp] theorem State.loadWord_draws (s : State) (w : InstrWord) : (s.loadWord w).draws = s.draws := rfl

end Sys2Proof.Machine
end

