-- ==== Sys2Proof/Laws/Ops.lean ====
section
/-! SUPPORT. For each operation of Ops.lean, once, everything it can do: when it answers and what, and which
reads a write changes. -/

namespace Sys2Proof.Machine

/-! ## Sequencing -/

theorem bind_ok {α β : Type} {x : Except Fault α} {f : α → Except Fault β} {b : β} :
    (x >>= f) = .ok b ↔ ∃ a, x = .ok a ∧ f a = .ok b := by
  cases x with
  | error e => exact ⟨fun h => (nomatch h), fun ⟨_, h, _⟩ => (nomatch h)⟩
  | ok a => exact ⟨fun h => ⟨a, rfl, h⟩, fun ⟨_, h, h'⟩ => by cases h; exact h'⟩

@[simp] theorem ok_bind {α β : Type} (a : α) (f : α → Except Fault β) : (Except.ok a >>= f) = f a := rfl

@[simp] theorem error_bind {α β : Type} (e : Fault) (f : α → Except Fault β) :
    ((Except.error e : Except Fault α) >>= f) = .error e := rfl

@[simp] theorem pure_ok {α : Type} (a : α) : (pure a : Except Fault α) = .ok a := rfl

/-- An instruction has a next state exactly when its effect does, and it is that state with pc advanced. -/
theorem commit_next {r : Except Fault State} {u : State} :
    commit r = .next u ↔ ∃ t, r = .ok t ∧ u = t.advance := by
  cases r with
  | error e => simp [commit]
  | ok t => simp [commit, eq_comm]

theorem commit_fault {r : Except Fault State} {f : Fault} : commit r = .fault f ↔ r = .error f := by
  cases r <;> simp [commit]

@[simp] theorem commit_ok (t : State) : commit (.ok t) = .next t.advance := rfl

@[simp] theorem commit_error (f : Fault) : commit (.error f) = .fault f := rfl

theorem commit_not_refused {r : Except Fault State} {x : Refusal} : commit r ≠ .refused x := by
  cases r <;> simp [commit]

/-! ## Gathering pents -/

theorem gather_ok {len : Nat} {f : Nat → Option Pent} {item : Nat → Item} {p : Pat len} :
    gather len f item = .ok p ↔ ∀ k, (h : k < len) → f k = some p[k] := by
  unfold gather
  cases hq : (List.range len).find? fun k => (f k).isNone with
  | some j =>
    have hj := List.find?_some hq
    have hm := List.mem_of_find?_eq_some hq
    simp only [List.mem_range, Option.isNone_iff_eq_none] at hm hj
    refine ⟨fun h => (nomatch h), fun h => ?_⟩
    have := h j hm
    rw [hj] at this; cases this
  | none =>
    simp only [List.find?_eq_none, List.mem_range] at hq
    have def_ : ∀ k, k < len → ∃ q, f k = some q := fun k hk =>
      Option.ne_none_iff_exists'.mp (by simpa using hq k hk)
    constructor
    · intro h k hk
      obtain ⟨q, hq'⟩ := def_ k hk
      cases h
      simp [hq']
    · intro h
      show Except.ok _ = Except.ok p
      congr 1
      apply Vector.ext
      intro k hk
      simp [h k hk]

theorem gather_error {len : Nat} {f : Nat → Option Pent} {item : Nat → Item} {e : Fault} :
    gather len f item = .error e ↔
      ∃ k, k < len ∧ f k = none ∧ (∀ j, j < k → (f j).isSome) ∧ e = .undefRead (item k) := by
  unfold gather
  cases hq : (List.range len).find? fun k => (f k).isNone with
  | none =>
    simp only [List.find?_eq_none, List.mem_range] at hq
    refine ⟨fun h => (nomatch h), ?_⟩
    rintro ⟨k, hk, hf, -⟩
    exact absurd (by simp [hf]) (hq k hk)
  | some j =>
    have hl : ∀ i, i < j → (f i).isSome := by
      intro i hi
      have := (List.find?_range_eq_some.mp hq).2.2 i hi
      simpa [Option.isSome_iff_ne_none] using this
    have hj := List.find?_some hq
    have hm := List.mem_of_find?_eq_some hq
    simp only [List.mem_range, Option.isNone_iff_eq_none] at hm hj
    constructor
    · intro h; cases h; exact ⟨j, hm, hj, hl, rfl⟩
    · rintro ⟨k, hk, hf, hlow, rfl⟩
      have : k = j := by
        rcases lt_trichotomy k j with h | h | h
        · have := hl k h; simp [hf] at this
        · exact h
        · have := hlow j h; simp [hj] at this
      rw [this]

/-! ## Scalar registers -/

theorem xraw_ok {s : State} {r : XNum} {p : Pat 16} : s.xraw r = .ok p ↔ s.x[r] = some p := by
  unfold State.xraw
  cases s.x[r] <;> simp

theorem xval_ok {s : State} {r : XNum} {c : Int} : s.xval r = .ok c ↔ ∃ p, s.x[r] = some p ∧ ival p = c := by
  simp only [State.xval, bind_ok, xraw_ok, pure_ok, Except.ok.injEq]

theorem xraw_setX (s : State) (r q : XNum) (p : Pat 16) :
    (s.setX r p).xraw q = if q = r then .ok p else s.xraw q := by
  unfold State.xraw
  by_cases h : q = r
  · subst h; simp
  · simp [h, Fin.val_ne_of_ne (Ne.symm h)]

theorem xval_setX (s : State) (r q : XNum) (p : Pat 16) :
    (s.setX r p).xval q = if q = r then .ok (ival p) else s.xval q := by
  unfold State.xval; rw [xraw_setX]; split <;> rfl

/-- R17: what a scalar register holds after a write. -/
theorem xval_putX (s : State) (r q : XNum) (a : Int) :
    (s.putX r a).xval q = if q = r then .ok (wrap 16 a) else s.xval q := by
  rw [State.putX, xval_setX, ival_strOf]

/-! ## Vector registers -/

theorem vpent_putElems (s : State) (n m : VNum) (t : EType) (val : Nat → Option (Pat (ew t))) (p : Nat)
    (hp : p < 256) :
    (s.putElems n t val).vpent m p =
      if m = n then (newPent t val p).or (s.vpent n p) else s.vpent m p := by
  unfold State.vpent State.putElems
  by_cases h : m = n
  · subst h
    simp only [Fin.getElem_fin, Vector.getElem_set_self, tabulate_getElem?, hp, if_true]
    cases newPent t val p <;> simp [State.vpent]
  · simp [h, Fin.val_ne_of_ne (Ne.symm h)]

/-- A pent beyond the register holds no value. -/
theorem vpent_beyond (s : State) (n : VNum) (p : Nat) (hp : 256 ≤ p) : s.vpent n p = none := by
  unfold State.vpent
  rw [Vector.getElem?_eq_none (by omega)]

theorem ew_pos (t : EType) : 0 < ew t := by cases t <;> decide

theorem ew_mul_epr (t : EType) : epr t * ew t ≤ 256 := by cases t <;> decide

theorem newPent_elem (t : EType) (val : Nat → Option (Pat (ew t))) (i k : Nat) (hi : i < epr t) (hk : k < ew t) :
    newPent t val (i * ew t + k) = (val i).map fun e => e[k] := by
  have hd : (i * ew t + k) / ew t = i := by
    rw [Nat.mul_comm, Nat.mul_add_div (ew_pos t), Nat.div_eq_of_lt hk, Nat.add_zero]
  have hm : (i * ew t + k) % ew t = k := by
    rw [Nat.mul_comm, Nat.mul_add_mod, Nat.mod_eq_of_lt hk]
  unfold newPent
  rw [hd, hm, if_pos hi]
  cases val i <;> simp [hk]

theorem newPent_none (t : EType) (val : Nat → Option (Pat (ew t))) (p : Nat)
    (h : epr t * ew t ≤ p ∨ val (p / ew t) = none) : newPent t val p = none := by
  unfold newPent
  rcases h with h | h
  · rw [if_neg]
    intro hlt
    have := (Nat.div_lt_iff_lt_mul (ew_pos t)).mp hlt
    omega
  · simp [h]

theorem vraw_ok {s : State} {n : VNum} {t : EType} {i : Nat} {p : Pat (ew t)} :
    s.vraw n t i = .ok p ↔ ∀ k, (h : k < ew t) → s.vpent n (i * ew t + k) = some p[k] := gather_ok

theorem ve_ok {s : State} {n : VNum} {t : EType} {i : Nat} {a : Int} :
    s.ve n t i = .ok a ↔ ∃ p, s.vraw n t i = .ok p ∧ ival p = a := by
  simp only [State.ve, bind_ok, pure_ok, Except.ok.injEq]

/-- R17, R24: an element that a write gives reads back as written. -/
theorem vraw_putElems_written (s : State) (n : VNum) (t : EType) (val : Nat → Option (Pat (ew t))) (i : Nat)
    (e : Pat (ew t)) (hi : i < epr t) (he : val i = some e) : (s.putElems n t val).vraw n t i = .ok e := by
  rw [vraw_ok]
  intro k hk
  have hb : i * ew t + k < 256 := by
    have h1 := ew_mul_epr t
    have h2 : (i + 1) * ew t ≤ epr t * ew t := Nat.mul_le_mul_right _ hi
    rw [Nat.add_mul] at h2; omega
  rw [vpent_putElems _ _ _ _ _ _ hb, if_pos rfl, newPent_elem _ _ _ _ hi hk, he]; simp

/-- R29: a pent outside the written elements keeps what it held, whatever register it is in. -/
theorem vpent_putElems_kept (s : State) (n m : VNum) (t : EType) (val : Nat → Option (Pat (ew t))) (p : Nat)
    (h : m ≠ n ∨ epr t * ew t ≤ p ∨ val (p / ew t) = none) :
    (s.putElems n t val).vpent m p = s.vpent m p := by
  by_cases hp : p < 256
  · rw [vpent_putElems _ _ _ _ _ _ hp]
    rcases h with h | h
    · rw [if_neg h]
    · split
      · next e => subst e; rw [newPent_none _ _ _ h]; simp
      · rfl
  · rw [vpent_beyond _ _ _ (by omega), vpent_beyond _ _ _ (by omega)]

theorem ve_putElems_written (s : State) (n : VNum) (t : EType) (val : Nat → Option (Pat (ew t))) (i : Nat)
    (e : Pat (ew t)) (hi : i < epr t) (he : val i = some e) :
    (s.putElems n t val).ve n t i = .ok (ival e) :=
  ve_ok.mpr ⟨e, vraw_putElems_written s n t val i e hi he, rfl⟩

/-- A write leaves no pent without a value that had one. -/
theorem vpent_putElems_defined (s : State) (n m : VNum) (t : EType) (val : Nat → Option (Pat (ew t))) (p : Nat)
    (h : (s.vpent m p).isSome) : ((s.putElems n t val).vpent m p).isSome := by
  by_cases hp : p < 256
  · rw [vpent_putElems _ _ _ _ _ _ hp]
    split
    · next e => subst e; cases newPent t val p <;> simp [h]
    · exact h
  · rw [vpent_beyond _ _ _ (by omega)] at h; cases h

/-! ## Mask registers -/

theorem readMask_ok {s : State} {k : MNum} {i : Nat} {b : Bool} : s.readMask k i = .ok b ↔ s.mbit k i = some b := by
  unfold State.readMask
  cases s.mbit k i <;> simp

theorem mbit_putMask (s : State) (k j : MNum) (val : Nat → Option Bool) (i : Nat) (hi : i < 18) :
    (s.putMask k val).mbit j i = if j = k then (val i).or (s.mbit k i) else s.mbit j i := by
  unfold State.mbit State.putMask
  by_cases h : j = k
  · subst h
    simp only [Fin.getElem_fin, Vector.getElem_set_self, tabulate_getElem?, hi, if_true]
    cases val i <;> simp [State.mbit]
  · simp [h, Fin.val_ne_of_ne (Ne.symm h)]

theorem mbit_beyond (s : State) (k : MNum) (i : Nat) (hi : 18 ≤ i) : s.mbit k i = none := by
  unfold State.mbit
  rw [Vector.getElem?_eq_none (by omega)]

/-- R36: a bit that is not written keeps what it held. -/
theorem mbit_putMask_kept (s : State) (k j : MNum) (val : Nat → Option Bool) (i : Nat)
    (h : j ≠ k ∨ val i = none) : (s.putMask k val).mbit j i = s.mbit j i := by
  by_cases hi : i < 18
  · rw [mbit_putMask _ _ _ _ _ hi]
    rcases h with h | h
    · rw [if_neg h]
    · split
      · next e => subst e; simp [h]
      · rfl
  · rw [mbit_beyond _ _ _ (by omega), mbit_beyond _ _ _ (by omega)]

/-! ## Memory -/

theorem memLookup_memInsert (m : Memory) (a b : Int) (p : Pent) :
    memLookup (memInsert m a p) b = if b = a then some p else memLookup m b := by
  induction m with
  | nil => simp [memInsert, memLookup]
  | cons c m ih =>
    obtain ⟨c, q⟩ := c
    unfold memInsert
    split
    · simp [memLookup]
    · split
      · next h => subst h; simp only [memLookup]; split <;> rfl
      · next h =>
        simp only [memLookup, ih]
        by_cases hb : b = c
        · have : ¬ b = a := fun e => h (by omega)
          subst hb; simp [this]
        · simp [hb]

/-- The keys of a memory after one insertion. -/
theorem mem_memInsert (m : Memory) (a : Int) (p : Pent) (c : Int × Pent) (h : c ∈ memInsert m a p) :
    c.1 = a ∨ c ∈ m := by
  induction m with
  | nil => simp [memInsert] at h; simp [h]
  | cons d m ih =>
    obtain ⟨d, q⟩ := d
    unfold memInsert at h
    split at h
    · simp at h ⊢; rcases h with h | h | h <;> simp [h]
    · split at h
      · simp at h ⊢; rcases h with h | h <;> simp [h]
      · simp only [List.mem_cons] at h ⊢
        rcases h with h | h
        · exact .inr (.inl h)
        · rcases ih h with h | h
          · exact .inl h
          · exact .inr (.inr h)

/-- One insertion keeps the canonical form. -/
theorem memInsert_wf (m : Memory) (a : Int) (p : Pent) (h : Memory.wf m) : Memory.wf (memInsert m a p) := by
  induction m with
  | nil => simp [memInsert]
  | cons d m ih =>
    obtain ⟨d, q⟩ := d
    obtain ⟨hd, hm⟩ := List.pairwise_cons.mp h
    unfold memInsert
    split
    · next hlt =>
      refine List.pairwise_cons.mpr ⟨?_, h⟩
      intro c hc
      rcases List.mem_cons.mp hc with rfl | hc
      · exact hlt
      · exact lt_trans hlt (hd c hc)
    · split
      · next e => subst e; exact List.pairwise_cons.mpr ⟨hd, hm⟩
      · refine List.pairwise_cons.mpr ⟨?_, ih hm⟩
        intro c hc
        rcases mem_memInsert m a p c hc with e | hc
        · show d < c.1; omega
        · exact hd c hc

/-- R56: what a read finds after a string is written. -/
theorem memLookup_writePents (m : Memory) (a : Int) (ps : List Pent) (b : Int) :
    memLookup (writePents m a ps) b =
      if a ≤ b ∧ b < a + ps.length then ps[(b - a).toNat]? else memLookup m b := by
  induction ps generalizing m a with
  | nil => simp [writePents]
  | cons p ps ih =>
    rw [writePents, ih, memLookup_memInsert]
    by_cases h : b = a
    · subst h
      have h1 : ¬ (b + 1 ≤ b ∧ b < b + 1 + (ps.length : Int)) := by omega
      have h2 : b ≤ b ∧ b < b + (((p :: ps).length : Nat) : Int) := by simp
      rw [if_neg h1, if_pos rfl, if_pos h2]; simp
    · by_cases h' : a + 1 ≤ b ∧ b < a + 1 + (ps.length : Int)
      · have h2 : a ≤ b ∧ b < a + (((p :: ps).length : Nat) : Int) := by
          rw [List.length_cons]; push_cast; omega
        rw [if_pos h', if_pos h2]
        have : (b - a).toNat = (b - (a + 1)).toNat + 1 := by omega
        rw [this, List.getElem?_cons_succ]
      · have h2 : ¬ (a ≤ b ∧ b < a + (((p :: ps).length : Nat) : Int)) := by
          rw [List.length_cons]; push_cast; omega
        rw [if_neg h', if_neg h2, if_neg h]

theorem writePents_wf (m : Memory) (a : Int) (ps : List Pent) (h : Memory.wf m) : Memory.wf (writePents m a ps) := by
  induction ps generalizing m a with
  | nil => exact h
  | cons p ps ih => exact ih _ _ (memInsert_wf _ _ _ h)

theorem lowest_none {bad : Int → Bool} {a : Int} {len : Nat} :
    lowest bad a len = none ↔ ∀ k, k < len → bad (a + (k : Int)) = false := by
  simp [lowest, List.find?_eq_none]

theorem lowest_some {bad : Int → Bool} {a b : Int} {len : Nat} (h : lowest bad a len = some b) :
    bad b = true ∧ a ≤ b ∧ b < a + len ∧ ∀ c, a ≤ c → c < b → bad c = false := by
  unfold lowest at h
  cases hq : (List.range len).find? fun (k : Nat) => bad (a + (k : Int)) with
  | none => simp [hq] at h
  | some j =>
    simp only [hq, Option.map_some, Option.some.injEq] at h
    subst h
    obtain ⟨h1, h2, h3⟩ := List.find?_range_eq_some.mp hq
    rw [List.mem_range] at h2
    refine ⟨h1, by omega, by omega, fun c hc hlt => ?_⟩
    have := h3 (c - a).toNat (by omega)
    have e : a + ((c - a).toNat : Int) = c := by omega
    rw [e] at this
    simpa using this

theorem validAddr_iff (s : State) (a : Int) : s.validAddr a = true ↔ s.memLo ≤ a ∧ a < s.memHi := by
  simp [State.validAddr]

theorem inCode_iff (s : State) (a : Int) : s.inCode a = true ↔ s.codeLo ≤ a ∧ a < s.codeHi := by
  simp [State.inCode]

/-- R55: a read answers exactly when every address is valid and holds a value. -/
theorem memReadRaw_ok {s : State} {a : Int} {len : Nat} {p : Pat len} :
    s.memReadRaw a len = .ok p ↔
      ∀ k, (h : k < len) → s.validAddr (a + (k : Int)) = true ∧ s.memPent (a + (k : Int)) = some p[k] := by
  unfold State.memReadRaw
  cases hq : lowest (fun b => !s.validAddr b) a len with
  | some b =>
    obtain ⟨h1, h2, h3, -⟩ := lowest_some hq
    refine ⟨fun h => (nomatch h), fun h => ?_⟩
    have := (h (b - a).toNat (by omega)).1
    have e : a + ((b - a).toNat : Int) = b := by omega
    rw [e] at this; simp [this] at h1
  | none =>
    rw [lowest_none] at hq
    simp only [gather_ok]
    refine forall_congr' fun k => forall_congr' fun hk => ?_
    simp [by simpa using hq k hk]

theorem storeFault_none {s : State} {len : Nat} {a : Int} :
    s.storeFault len a = none ↔
      ∀ k, k < len → s.validAddr (a + (k : Int)) = true ∧ s.inCode (a + (k : Int)) = false := by
  unfold State.storeFault
  cases hq : lowest (fun b => !s.validAddr b) a len with
  | some b =>
    obtain ⟨h1, h2, h3, -⟩ := lowest_some hq
    refine ⟨fun h => (nomatch h), fun h => ?_⟩
    have := (h (b - a).toNat (by omega)).1
    have e : a + ((b - a).toNat : Int) = b := by omega
    rw [e] at this; simp [this] at h1
  | none =>
    rw [lowest_none] at hq
    simp only [Option.map_eq_none_iff, lowest_none]
    refine forall_congr' fun k => forall_congr' fun hk => ?_
    simp [by simpa using hq k hk]

/-- The memory after the strings of a list are written in order. -/
def storedMem {len : Nat} (m : Memory) (ws : List (Int × Pat len)) : Memory :=
  ws.foldl (fun m w => writePents m w.1 w.2.toList) m

/-- R210: a store answers exactly when no range faults, and then only memory changes. -/
theorem storeElems_ok {len : Nat} {s t : State} {ws : List (Int × Pat len)} :
    s.storeElems ws = .ok t ↔
      (∀ w ∈ ws, s.storeFault len w.1 = none) ∧ t = { s with mem := storedMem s.mem ws } := by
  unfold State.storeElems
  cases hq : ws.findSome? fun w => s.storeFault len w.1 with
  | some f =>
    refine ⟨fun h => (nomatch h), fun ⟨h, _⟩ => ?_⟩
    obtain ⟨w, hw, hf⟩ := List.exists_of_findSome?_eq_some hq
    rw [h w hw] at hf; cases hf
  | none =>
    rw [List.findSome?_eq_none_iff] at hq
    exact ⟨fun h => ⟨hq, by cases h; rfl⟩, fun ⟨_, h⟩ => by rw [h]; rfl⟩

theorem storedMem_wf {len : Nat} (m : Memory) (ws : List (Int × Pat len)) (h : Memory.wf m) :
    Memory.wf (storedMem m ws) := by
  induction ws generalizing m with
  | nil => exact h
  | cons w ws ih => exact ih _ (writePents_wf _ _ _ h)

/-- An address outside every written range reads as before. -/
theorem memLookup_storedMem_outside {len : Nat} (m : Memory) (ws : List (Int × Pat len)) (b : Int)
    (h : ∀ w ∈ ws, ¬ (w.1 ≤ b ∧ b < w.1 + len)) : memLookup (storedMem m ws) b = memLookup m b := by
  induction ws generalizing m with
  | nil => rfl
  | cons w ws ih =>
    have e : storedMem m (w :: ws) = storedMem (writePents m w.1 w.2.toList) ws := rfl
    rw [e, ih _ fun w' hw => h w' (List.mem_cons_of_mem _ hw), memLookup_writePents, Vector.length_toList,
      if_neg (h w List.mem_cons_self)]

/-- R60: the last written range that covers an address is what a read there finds. -/
theorem memLookup_storedMem_last {len : Nat} (m : Memory) (ws us : List (Int × Pat len)) (w : Int × Pat len) (k : Nat)
    (hk : k < len) (h : ∀ u ∈ us, ¬ (u.1 ≤ w.1 + (k : Int) ∧ w.1 + (k : Int) < u.1 + len)) :
    memLookup (storedMem m (ws ++ w :: us)) (w.1 + (k : Int)) = some w.2[k] := by
  have e : storedMem m (ws ++ w :: us) = storedMem (writePents (storedMem m ws) w.1 w.2.toList) us := by
    simp [storedMem, List.foldl_append]
  rw [e, memLookup_storedMem_outside _ _ _ h, memLookup_writePents, Vector.length_toList, if_pos (by omega)]
  have : (w.1 + (k : Int) - w.1).toNat = k := by omega
  rw [this]; simp [hk]

/-- No address loses its value in a store. -/
theorem memLookup_writePents_defined (m : Memory) (a : Int) (ps : List Pent) (b : Int)
    (h : (memLookup m b).isSome) : (memLookup (writePents m a ps) b).isSome := by
  rw [memLookup_writePents]
  split
  · next hb => simp; omega
  · exact h

end Sys2Proof.Machine
end

