-- ==== Sys2Proof/Laws/Operands.lean ====
section
/-! SUPPORT. For each operation of Operands.lean and Flags.lean, once, when it answers and with what: every
read it makes, and the one update it makes with what it read. -/

namespace Sys2Proof.Machine

/-! ## Faults of a sequence -/

theorem bind_error {α β : Type} {x : Except Fault α} {f : α → Except Fault β} {e : Fault} :
    (x >>= f) = .error e ↔ x = .error e ∨ ∃ a, x = .ok a ∧ f a = .error e := by
  cases x with
  | error d => exact ⟨fun h => .inl (by cases h; rfl), fun h => by
      rcases h with h | ⟨_, h, _⟩
      · cases h; rfl
      · cases h⟩
  | ok a => exact ⟨fun h => .inr ⟨a, rfl, h⟩, fun h => by
      rcases h with h | ⟨_, h, h'⟩
      · cases h
      · cases h; exact h'⟩

/-- A computation answers or raises a fault. -/
theorem ok_or_error {α : Type} (x : Except Fault α) : (∃ a, x = .ok a) ∨ ∃ e, x = .error e := by
  cases x with
  | ok a => exact .inl ⟨a, rfl⟩
  | error e => exact .inr ⟨e, rfl⟩

/-! ## VL -/

theorem readVL_ok {s : State} {n : Nat} : s.readVL = .ok n ↔ s.vl = some n := by
  unfold State.readVL; cases s.vl <;> simp

theorem readVL_error {s : State} {e : Fault} : s.readVL = .error e ↔ s.vl = none ∧ e = .undefRead .vl := by
  unfold State.readVL; cases s.vl <;> simp [eq_comm]

theorem readVType_ok {s : State} {t : EType} : s.readVType = .ok t ↔ s.vtype = some t := by
  unfold State.readVType; cases s.vtype <;> simp

/-- R32: the active length is VL where VL is in range for the suffix. -/
theorem activeLen_ok {t : EType} {s : State} {n : Nat} : activeLen t s = .ok n ↔ s.vl = some n ∧ n ≤ epr t := by
  unfold activeLen State.readVL
  cases s.vl with
  | none => simp
  | some m =>
    simp only [ok_bind, Option.some.injEq]
    split
    · exact ⟨fun h => (nomatch h), fun ⟨h, h'⟩ => by omega⟩
    · simp only [pure_ok, Except.ok.injEq]
      exact ⟨fun h => ⟨h, by omega⟩, fun h => h.1⟩

theorem activeLen_error {t : EType} {s : State} {e : Fault} :
    activeLen t s = .error e ↔
      (s.vl = none ∧ e = .undefRead .vl) ∨ ∃ n, s.vl = some n ∧ epr t < n ∧ e = .vlTooLarge n (epr t) := by
  unfold activeLen State.readVL
  cases s.vl with
  | none => simp [eq_comm]
  | some m =>
    simp only [ok_bind, Option.some.injEq]
    split
    · simp_all [eq_comm]
    · simp; omega

/-! ## Reading all elements -/

theorem collectList_ok {α : Type} {f : Nat → Except Fault α} {is : List Nat} {l : List α} :
    collectList f is = .ok l ↔ is.map f = l.map .ok := by
  induction is generalizing l with
  | nil => cases l <;> simp [collectList]
  | cons i is ih =>
    simp only [collectList, bind_ok, pure_ok, Except.ok.injEq, List.map_cons]
    constructor
    · rintro ⟨a, ha, as, has, rfl⟩
      rw [ha, ih.mp has]; rfl
    · intro h
      cases l with
      | nil => cases h
      | cons a as =>
        obtain ⟨h1, h2⟩ := List.cons_eq_cons.mp h
        exact ⟨a, h1, as, ih.mpr h2, rfl⟩

theorem collectList_error {α : Type} {f : Nat → Except Fault α} {is : List Nat} {e : Fault} :
    collectList f is = .error e ↔
      ∃ pre i post, is = pre ++ i :: post ∧ f i = .error e ∧ ∀ j ∈ pre, ∃ a, f j = .ok a := by
  induction is with
  | nil => simp [collectList]
  | cons i is ih =>
    simp only [collectList, bind_error, pure_ok, reduceCtorEq, and_false, exists_false, or_false]
    constructor
    · rintro (h | ⟨a, ha, h⟩)
      · exact ⟨[], i, is, rfl, h, by simp⟩
      · obtain ⟨pre, j, post, rfl, hj, hp⟩ := ih.mp h
        exact ⟨i :: pre, j, post, rfl, hj, by
          intro k hk
          rcases List.mem_cons.mp hk with rfl | hk
          · exact ⟨a, ha⟩
          · exact hp k hk⟩
    · rintro ⟨pre, j, post, h, hj, hp⟩
      cases pre with
      | nil => cases h; exact .inl hj
      | cons k pre =>
        obtain ⟨rfl, rfl⟩ := List.cons_eq_cons.mp h
        obtain ⟨a, ha⟩ := hp i List.mem_cons_self
        exact .inr ⟨a, ha, ih.mpr ⟨pre, j, post, rfl, hj, fun k hk => hp k (List.mem_cons_of_mem _ hk)⟩⟩

/-- `collect` answers exactly when every index below `n` does, with the list of the answers. -/
theorem collect_ok {α : Type} [Inhabited α] {n : Nat} {f : Nat → Except Fault α} {l : List α} :
    collect n f = .ok l ↔ ∃ g : Nat → α, (∀ i, i < n → f i = .ok (g i)) ∧ l = (List.range n).map g := by
  unfold collect
  rw [collectList_ok]
  constructor
  · intro h
    have hlen : l.length = n := by simpa using (congrArg List.length h).symm
    refine ⟨fun i => l.getD i default, fun i hi => ?_, ?_⟩
    · have := congrArg (fun m => m[i]?) h
      simp only [List.getElem?_map, List.getElem?_range hi, Option.map_some] at this
      rw [List.getElem?_eq_getElem (by omega)] at this
      simpa [List.getD_eq_getElem?_getD, List.getElem?_eq_getElem (show i < l.length by omega)] using this
    · apply List.ext_getElem (by simp [hlen])
      intro i h1 h2
      simp [h1]
  · rintro ⟨g, hg, rfl⟩
    simp only [List.map_map]
    exact List.map_congr_left fun i hi => hg i (List.mem_range.mp hi)

/-- The form of `collect_ok` that shows an instruction completes. -/
theorem collect_eq {α : Type} {n : Nat} {f : Nat → Except Fault α} {g : Nat → α}
    (h : ∀ i, i < n → f i = .ok (g i)) : collect n f = .ok ((List.range n).map g) := by
  unfold collect
  rw [collectList_ok, List.map_map]
  exact List.map_congr_left fun i hi => h i (List.mem_range.mp hi)

/-- R273: `collect` raises the fault of the lowest index that raises one. -/
theorem collect_error {α : Type} {n : Nat} {f : Nat → Except Fault α} {e : Fault} :
    collect n f = .error e ↔ ∃ i, i < n ∧ f i = .error e ∧ ∀ j, j < i → ∃ a, f j = .ok a := by
  unfold collect
  rw [collectList_error]
  constructor
  · rintro ⟨pre, i, post, h, hi, hp⟩
    have hl : pre.length < n := by have := congrArg List.length h; simp at this; omega
    have key : ∀ j, j < n → (pre ++ i :: post)[j]? = some j := fun j hj => by rw [← h]; simp [hj]
    have e1 : i = pre.length := by have := key _ hl; simpa using this
    subst e1
    refine ⟨pre.length, hl, hi, fun j hj => hp j ?_⟩
    have := key j (by omega)
    rw [List.getElem?_append_left hj] at this
    exact List.mem_of_getElem? this
  · rintro ⟨i, hi, he, hl⟩
    refine ⟨List.range i, i, (List.range' (i + 1) (n - i - 1)), ?_, he, fun j hj => hl j (List.mem_range.mp hj)⟩
    rw [List.range_eq_range', List.range_eq_range']
    have : n = i + (n - i - 1 + 1) := by omega
    conv_lhs => rw [this, ← List.range'_append_1]
    simp [List.range'_succ]

/-- The results `f 0`, ..., `f (n - 1)` as the written elements of a register or mask. -/
def below {α : Type} (n : Nat) (f : Nat → α) : Nat → Option α := fun i => if i < n then some (f i) else none

theorem getElem?_map_range {α : Type} (n : Nat) (g : Nat → α) :
    (fun i => ((List.range n).map g)[i]?) = below n g := by
  funext i
  by_cases h : i < n <;> simp [below, h]

@[simp] theorem below_lt {α : Type} {n i : Nat} (f : Nat → α) (h : i < n) : below n f i = some (f i) := if_pos h

@[simp] theorem below_ge {α : Type} {n i : Nat} (f : Nat → α) (h : n ≤ i) : below n f i = none :=
  if_neg (by omega)

/-- Writing the active elements: all of `elem 0`, ..., `elem (n - 1)` are read, then written. -/
theorem writeActive_ok {t : EType} {vd : VNum} {n : Nat} {s u : State} {elem : Nat → Except Fault (Pat (ew t))} :
    writeActive t vd n s elem = .ok u ↔
      ∃ g : Nat → Pat (ew t), (∀ i, i < n → elem i = .ok (g i)) ∧ u = s.putElems vd t (below n g) := by
  have : Inhabited (Pat (ew t)) := ⟨Vector.replicate _ .zero⟩
  simp only [writeActive, bind_ok, pure_ok, Except.ok.injEq, collect_ok]
  constructor
  · rintro ⟨_, ⟨g, hg, rfl⟩, rfl⟩
    exact ⟨g, hg, by rw [getElem?_map_range]⟩
  · rintro ⟨g, hg, rfl⟩
    exact ⟨_, ⟨g, hg, rfl⟩, by rw [getElem?_map_range]⟩

/-! ## Integer operand shapes -/

/-- Elements that are each read and then computed from. -/
theorem map_elems {α β : Type} [Inhabited α] {n : Nat} {r : Nat → Except Fault α} {h : Nat → α → β} {g : Nat → β} :
    (∀ i, i < n → ∃ a, r i = .ok a ∧ h i a = g i) ↔
      ∃ a : Nat → α, (∀ i, i < n → r i = .ok (a i)) ∧ ∀ i, i < n → g i = h i (a i) := by
  constructor
  · intro hh
    have : ∀ i, ∃ a, i < n → r i = .ok a ∧ h i a = g i := fun i => by
      by_cases hi : i < n
      · obtain ⟨a, h1⟩ := hh i hi; exact ⟨a, fun _ => h1⟩
      · exact ⟨default, fun h => absurd h hi⟩
    choose a ha using this
    exact ⟨a, fun i hi => (ha i hi).1, fun i hi => (ha i hi).2.symm⟩
  · rintro ⟨a, h1, h2⟩ i hi
    exact ⟨a i, h1 i hi, (h2 i hi).symm⟩

/-- Elements computed from two reads each. -/
theorem map_elems2 {α β γ : Type} [Inhabited α] [Inhabited β] {n : Nat} {p : Nat → Except Fault α}
    {q : Nat → Except Fault β} {h : Nat → α → β → γ} {g : Nat → γ} :
    (∀ i, i < n → ∃ a, p i = .ok a ∧ ∃ b, q i = .ok b ∧ h i a b = g i) ↔
      ∃ (a : Nat → α) (b : Nat → β), (∀ i, i < n → p i = .ok (a i)) ∧ (∀ i, i < n → q i = .ok (b i)) ∧
        ∀ i, i < n → g i = h i (a i) (b i) := by
  constructor
  · intro hh
    have : ∀ i, ∃ a b, i < n → p i = .ok a ∧ q i = .ok b ∧ h i a b = g i := fun i => by
      by_cases hi : i < n
      · obtain ⟨a, h1, b, h2⟩ := hh i hi; exact ⟨a, b, fun _ => ⟨h1, h2⟩⟩
      · exact ⟨default, default, fun h => absurd h hi⟩
    choose a b ha using this
    exact ⟨a, b, fun i hi => (ha i hi).1, fun i hi => (ha i hi).2.1, fun i hi => (ha i hi).2.2.symm⟩
  · rintro ⟨a, b, h1, h2, h3⟩ i hi
    exact ⟨a i, h1 i hi, b i, h2 i hi, (h3 i hi).symm⟩

/-- Elements computed from three reads each. -/
theorem map_elems3 {α β : Type} [Inhabited α] {n : Nat} {p q r : Nat → Except Fault α}
    {h : Nat → α → α → α → β} {g : Nat → β} :
    (∀ i, i < n → ∃ a, p i = .ok a ∧ ∃ b, q i = .ok b ∧ ∃ c, r i = .ok c ∧ h i a b c = g i) ↔
      ∃ a b c : Nat → α, (∀ i, i < n → p i = .ok (a i)) ∧ (∀ i, i < n → q i = .ok (b i)) ∧
        (∀ i, i < n → r i = .ok (c i)) ∧ ∀ i, i < n → g i = h i (a i) (b i) (c i) := by
  constructor
  · intro hh
    have : ∀ i, ∃ a b c, i < n → p i = .ok a ∧ q i = .ok b ∧ r i = .ok c ∧ h i a b c = g i := fun i => by
      by_cases hi : i < n
      · obtain ⟨a, h1, b, h2, c, h3⟩ := hh i hi; exact ⟨a, b, c, fun _ => ⟨h1, h2, h3⟩⟩
      · exact ⟨default, default, default, fun h => absurd h hi⟩
    choose a b c ha using this
    exact ⟨a, b, c, fun i hi => (ha i hi).1, fun i hi => (ha i hi).2.1, fun i hi => (ha i hi).2.2.1,
      fun i hi => (ha i hi).2.2.2.symm⟩
  · rintro ⟨a, b, c, h1, h2, h3, h4⟩ i hi
    exact ⟨a i, h1 i hi, b i, h2 i hi, c i, h3 i hi, (h4 i hi).symm⟩

theorem below_congr {α : Type} {n : Nat} {f g : Nat → α} (h : ∀ i, i < n → f i = g i) : below n f = below n g := by
  funext i
  by_cases hi : i < n
  · simp [hi, h i hi]
  · simp [below, hi]

theorem intUnary_ok {t : EType} {g : Int → Int} {vd vs : VNum} {s u : State} :
    intUnary t g vd vs s = .ok u ↔
      ∃ (n : Nat) (a : Nat → Int), s.vl = some n ∧ n ≤ epr t ∧ (∀ i, i < n → s.ve vs t i = .ok (a i)) ∧
        u = s.putElems vd t (below n fun i => strOf (ew t) (g (a i))) := by
  simp only [intUnary, bind_ok, activeLen_ok, writeActive_ok, pure_ok, Except.ok.injEq, map_elems]
  constructor
  · rintro ⟨n, ⟨h1, h2⟩, e, ⟨a, ha, he⟩, rfl⟩
    exact ⟨n, a, h1, h2, ha, by rw [below_congr he]⟩
  · rintro ⟨n, a, h1, h2, ha, rfl⟩
    exact ⟨n, ⟨h1, h2⟩, _, ⟨a, ha, fun _ _ => rfl⟩, rfl⟩

theorem intBinary_ok {t : EType} {g : Int → Int → Int} {vd vs1 vs2 : VNum} {s u : State} :
    intBinary t g vd vs1 vs2 s = .ok u ↔
      ∃ (n : Nat) (a b : Nat → Int), s.vl = some n ∧ n ≤ epr t ∧ (∀ i, i < n → s.ve vs1 t i = .ok (a i)) ∧
        (∀ i, i < n → s.ve vs2 t i = .ok (b i)) ∧
        u = s.putElems vd t (below n fun i => strOf (ew t) (g (a i) (b i))) := by
  simp only [intBinary, bind_ok, activeLen_ok, writeActive_ok, pure_ok, Except.ok.injEq, map_elems2]
  constructor
  · rintro ⟨n, ⟨h1, h2⟩, e, ⟨a, b, ha, hb, he⟩, rfl⟩
    exact ⟨n, a, b, h1, h2, ha, hb, by rw [below_congr he]⟩
  · rintro ⟨n, a, b, h1, h2, ha, hb, rfl⟩
    exact ⟨n, ⟨h1, h2⟩, _, ⟨a, b, ha, hb, fun _ _ => rfl⟩, rfl⟩

theorem intScalar_ok {g : Int → Int → Int} {vd vs : VNum} {rs : XNum} {s u : State} :
    intScalar g vd vs rs s = .ok u ↔
      ∃ (n : Nat) (c : Int) (a : Nat → Int), s.vl = some n ∧ n ≤ 16 ∧ s.xval rs = .ok c ∧
        (∀ i, i < n → s.ve vs .p16 i = .ok (a i)) ∧
        u = s.putElems vd .p16 (below n fun i => strOf (ew .p16) (g (a i) c)) := by
  simp only [intScalar, bind_ok, activeLen_ok, writeActive_ok, pure_ok, Except.ok.injEq, map_elems]
  constructor
  · rintro ⟨n, ⟨h1, h2⟩, c, hc, e, ⟨a, ha, he⟩, rfl⟩
    exact ⟨n, c, a, h1, h2, hc, ha, by rw [below_congr he]⟩
  · rintro ⟨n, c, a, h1, h2, hc, ha, rfl⟩
    exact ⟨n, ⟨h1, h2⟩, c, hc, _, ⟨a, ha, fun _ _ => rfl⟩, rfl⟩

/-- R128: a zero divisor gives a draw; the counter of draws moves by the active length. -/
theorem intDivide_ok {g : Int → Int → Int} {vd vs1 vs2 : VNum} {s u : State} :
    intDivide g vd vs1 vs2 s = .ok u ↔
      ∃ (n : Nat) (a b : Nat → Int), s.vl = some n ∧ n ≤ 16 ∧ (∀ i, i < n → s.ve vs1 .p16 i = .ok (a i)) ∧
        (∀ i, i < n → s.ve vs2 .p16 i = .ok (b i)) ∧
        u = { s.putElems vd .p16 (below n fun i =>
                if b i = 0 then Config.draw16 (s.draws + i) else strOf 16 (g (a i) (b i))) with
              draws := s.draws + n } := by
  simp only [intDivide, bind_ok, activeLen_ok, writeActive_ok, pure_ok, Except.ok.injEq, map_elems2]
  constructor
  · rintro ⟨n, ⟨h1, h2⟩, _, ⟨e, ⟨a, b, ha, hb, he⟩, rfl⟩, rfl⟩
    exact ⟨n, a, b, h1, h2, ha, hb, by rw [below_congr he]⟩
  · rintro ⟨n, a, b, h1, h2, ha, hb, rfl⟩
    exact ⟨n, ⟨h1, h2⟩, _, ⟨_, ⟨a, b, ha, hb, fun _ _ => rfl⟩, rfl⟩, rfl⟩

theorem intReduce_ok {g : List Int → Int} {rd : XNum} {vs : VNum} {s u : State} :
    intReduce g rd vs s = .ok u ↔
      ∃ (n : Nat) (a : Nat → Int), s.vl = some n ∧ n ≤ 16 ∧ (∀ i, i < n → s.ve vs .p16 i = .ok (a i)) ∧
        u = s.putX rd (g ((List.range n).map a)) := by
  simp only [intReduce, bind_ok, activeLen_ok, collect_ok, pure_ok, Except.ok.injEq]
  constructor
  · rintro ⟨n, ⟨h1, h2⟩, _, ⟨a, ha, rfl⟩, rfl⟩
    exact ⟨n, a, h1, h2, ha, rfl⟩
  · rintro ⟨n, a, h1, h2, ha, rfl⟩
    exact ⟨n, ⟨h1, h2⟩, _, ⟨a, ha, rfl⟩, rfl⟩

theorem foldl_max_spec (as : List Int) (a : Int) :
    (as.foldl max a ∈ a :: as) ∧ ∀ b ∈ a :: as, b ≤ as.foldl max a := by
  induction as generalizing a with
  | nil => simp
  | cons c as ih =>
    obtain ⟨h1, h2⟩ := ih (max a c)
    have hm := h2 (max a c) List.mem_cons_self
    simp only [List.foldl_cons]
    refine ⟨?_, ?_⟩
    · rcases List.mem_cons.mp h1 with h | h
      · rw [h]; rcases max_choice a c with e | e <;> simp [e]
      · simp [h]
    · intro b hb
      rcases List.mem_cons.mp hb with rfl | hb
      · exact le_trans (le_max_left _ _) hm
      · rcases List.mem_cons.mp hb with rfl | hb
        · exact le_trans (le_max_right _ _) hm
        · exact h2 b (List.mem_cons_of_mem _ hb)

theorem foldl_min_spec (as : List Int) (a : Int) :
    (as.foldl min a ∈ a :: as) ∧ ∀ b ∈ a :: as, as.foldl min a ≤ b := by
  induction as generalizing a with
  | nil => simp
  | cons c as ih =>
    obtain ⟨h1, h2⟩ := ih (min a c)
    have hm := h2 (min a c) List.mem_cons_self
    simp only [List.foldl_cons]
    refine ⟨?_, ?_⟩
    · rcases List.mem_cons.mp h1 with h | h
      · rw [h]; rcases min_choice a c with e | e <;> simp [e]
      · simp [h]
    · intro b hb
      rcases List.mem_cons.mp hb with rfl | hb
      · exact le_trans hm (min_le_left _ _)
      · rcases List.mem_cons.mp hb with rfl | hb
        · exact le_trans hm (min_le_right _ _)
        · exact h2 b (List.mem_cons_of_mem _ hb)

/-- R136: the largest of a list that is not empty is one of it and no less than any of it. -/
theorem listMax_spec {l : List Int} (h : l ≠ []) : listMax l ∈ l ∧ ∀ a ∈ l, a ≤ listMax l := by
  cases l with
  | nil => exact absurd rfl h
  | cons a as => exact foldl_max_spec as a

/-- R137: the least of a list that is not empty is one of it and no more than any of it. -/
theorem listMin_spec {l : List Int} (h : l ≠ []) : listMin l ∈ l ∧ ∀ a ∈ l, listMin l ≤ a := by
  cases l with
  | nil => exact absurd rfl h
  | cons a as => exact foldl_min_spec as a

/-! ## Raw operand shapes -/

theorem rawUnary_ok {t : EType} {g : Pat (ew t) → Pat (ew t)} {vd vs : VNum} {s u : State} :
    rawUnary t g vd vs s = .ok u ↔
      ∃ (n : Nat) (a : Nat → Pat (ew t)), s.vl = some n ∧ n ≤ epr t ∧ (∀ i, i < n → s.vraw vs t i = .ok (a i)) ∧
        u = s.putElems vd t (below n fun i => g (a i)) := by
  have : Inhabited (Pat (ew t)) := ⟨Vector.replicate _ .zero⟩
  simp only [rawUnary, bind_ok, activeLen_ok, writeActive_ok, pure_ok, Except.ok.injEq, map_elems]
  constructor
  · rintro ⟨n, ⟨h1, h2⟩, e, ⟨a, ha, he⟩, rfl⟩
    exact ⟨n, a, h1, h2, ha, by rw [below_congr he]⟩
  · rintro ⟨n, a, h1, h2, ha, rfl⟩
    exact ⟨n, ⟨h1, h2⟩, _, ⟨a, ha, fun _ _ => rfl⟩, rfl⟩

theorem rawBinary_ok {t : EType} {g : Pat (ew t) → Pat (ew t) → Pat (ew t)} {vd vs1 vs2 : VNum} {s u : State} :
    rawBinary t g vd vs1 vs2 s = .ok u ↔
      ∃ (n : Nat) (a b : Nat → Pat (ew t)), s.vl = some n ∧ n ≤ epr t ∧
        (∀ i, i < n → s.vraw vs1 t i = .ok (a i)) ∧ (∀ i, i < n → s.vraw vs2 t i = .ok (b i)) ∧
        u = s.putElems vd t (below n fun i => g (a i) (b i)) := by
  have : Inhabited (Pat (ew t)) := ⟨Vector.replicate _ .zero⟩
  simp only [rawBinary, bind_ok, activeLen_ok, writeActive_ok, pure_ok, Except.ok.injEq, map_elems2]
  constructor
  · rintro ⟨n, ⟨h1, h2⟩, e, ⟨a, b, ha, hb, he⟩, rfl⟩
    exact ⟨n, a, b, h1, h2, ha, hb, by rw [below_congr he]⟩
  · rintro ⟨n, a, b, h1, h2, ha, hb, rfl⟩
    exact ⟨n, ⟨h1, h2⟩, _, ⟨a, b, ha, hb, fun _ _ => rfl⟩, rfl⟩

theorem rawTernary_ok {t : EType} {g : Pat (ew t) → Pat (ew t) → Pat (ew t) → Pat (ew t)}
    {vd vs1 vs2 vs3 : VNum} {s u : State} :
    rawTernary t g vd vs1 vs2 vs3 s = .ok u ↔
      ∃ (n : Nat) (a b c : Nat → Pat (ew t)), s.vl = some n ∧ n ≤ epr t ∧
        (∀ i, i < n → s.vraw vs1 t i = .ok (a i)) ∧ (∀ i, i < n → s.vraw vs2 t i = .ok (b i)) ∧
        (∀ i, i < n → s.vraw vs3 t i = .ok (c i)) ∧
        u = s.putElems vd t (below n fun i => g (a i) (b i) (c i)) := by
  have : Inhabited (Pat (ew t)) := ⟨Vector.replicate _ .zero⟩
  simp only [rawTernary, bind_ok, activeLen_ok, writeActive_ok, pure_ok, Except.ok.injEq, map_elems3]
  constructor
  · rintro ⟨n, ⟨h1, h2⟩, e, ⟨a, b, c, ha, hb, hc, he⟩, rfl⟩
    exact ⟨n, a, b, c, h1, h2, ha, hb, hc, by rw [below_congr he]⟩
  · rintro ⟨n, a, b, c, h1, h2, ha, hb, hc, rfl⟩
    exact ⟨n, ⟨h1, h2⟩, _, ⟨a, b, c, ha, hb, hc, fun _ _ => rfl⟩, rfl⟩

theorem rawScalar_ok {g : Pat (ew .f16) → Pat 16 → Pat (ew .f16)} {vd vs : VNum} {rs : XNum} {s u : State} :
    rawScalar g vd vs rs s = .ok u ↔
      ∃ (n : Nat) (c : Pat 16) (a : Nat → Pat (ew .f16)), s.vl = some n ∧ n ≤ 16 ∧ s.xraw rs = .ok c ∧
        (∀ i, i < n → s.vraw vs .f16 i = .ok (a i)) ∧ u = s.putElems vd .f16 (below n fun i => g (a i) c) := by
  have : Inhabited (Pat (ew .f16)) := ⟨Vector.replicate _ .zero⟩
  simp only [rawScalar, bind_ok, activeLen_ok, writeActive_ok, pure_ok, Except.ok.injEq, map_elems]
  constructor
  · rintro ⟨n, ⟨h1, h2⟩, c, hc, e, ⟨a, ha, he⟩, rfl⟩
    exact ⟨n, c, a, h1, h2, hc, ha, by rw [below_congr he]⟩
  · rintro ⟨n, c, a, h1, h2, hc, ha, rfl⟩
    exact ⟨n, ⟨h1, h2⟩, c, hc, _, ⟨a, ha, fun _ _ => rfl⟩, rfl⟩

/-! ## Memory operand shapes -/

theorem baseAddr_ok {t : EType} {r : XNum} {s : State} {p : Nat × Int} :
    baseAddr t r s = .ok p ↔ s.vl = some p.1 ∧ p.1 ≤ epr t ∧ s.xval r = .ok p.2 := by
  simp only [baseAddr, bind_ok, activeLen_ok, pure_ok, Except.ok.injEq]
  constructor
  · rintro ⟨n, ⟨h1, h2⟩, b, hb, rfl⟩; exact ⟨h1, h2, hb⟩
  · rintro ⟨h1, h2, hb⟩; exact ⟨_, ⟨h1, h2⟩, _, hb, rfl⟩

theorem loadActive_ok {t : EType} {vd : VNum} {n : Nat} {addr : Nat → Int} {s u : State} :
    loadActive t vd n addr s = .ok u ↔
      ∃ g : Nat → Pat (ew t), (∀ i, i < n → s.memReadRaw (addr i) (ew t) = .ok (g i)) ∧
        u = s.putElems vd t (below n g) := writeActive_ok

/-- R210: a store reads every source element, and writes memory only where every range is free of faults. -/
theorem storeActive_ok {t : EType} {vs : VNum} {n : Nat} {addr : Nat → Int} {s u : State} :
    storeActive t vs n addr s = .ok u ↔
      ∃ e : Nat → Pat (ew t), (∀ i, i < n → s.vraw vs t i = .ok (e i)) ∧
        (∀ i, i < n → s.storeFault (ew t) (addr i) = none) ∧
        u = { s with mem := storedMem s.mem ((List.range n).map fun i => (addr i, e i)) } := by
  have inh : Inhabited (Pat (ew t)) := ⟨Vector.replicate _ .zero⟩
  simp only [storeActive, bind_ok, collect_ok, pure_ok, Except.ok.injEq, map_elems, storeElems_ok]
  constructor
  · rintro ⟨_, ⟨g, ⟨e, he, hg⟩, rfl⟩, hf, rfl⟩
    refine ⟨e, he, fun i hi => ?_, ?_⟩
    · have := hf (g i) (List.mem_map_of_mem (List.mem_range.mpr hi))
      rw [hg i hi] at this; exact this
    · rw [List.map_congr_left fun i hi => hg i (List.mem_range.mp hi)]
  · rintro ⟨e, he, hf, rfl⟩
    refine ⟨_, ⟨_, ⟨e, he, fun _ _ => rfl⟩, rfl⟩, ?_, rfl⟩
    intro w hw
    obtain ⟨i, hi, rfl⟩ := List.mem_map.mp hw
    exact hf i (List.mem_range.mp hi)

/-- R60, R210: of the ranges of a store in ascending element order, the last that covers an address is what a
read there finds. -/
theorem memLookup_stored_last {len n : Nat} (m : Memory) (addr : Nat → Int) (e : Nat → Pat len) (i k : Nat)
    (hi : i < n) (hk : k < len)
    (last : ∀ j, i < j → j < n → ¬ (addr j ≤ addr i + (k : Int) ∧ addr i + (k : Int) < addr j + len)) :
    memLookup (storedMem m ((List.range n).map fun i => (addr i, e i))) (addr i + (k : Int)) = some (e i)[k] := by
  have hs : List.range n = List.range i ++ i :: List.range' (i + 1) (n - i - 1) := by
    rw [List.range_eq_range', List.range_eq_range']
    have : n = i + (n - i - 1 + 1) := by omega
    conv_lhs => rw [this, ← List.range'_append_1]
    simp [List.range'_succ]
  rw [hs, List.map_append, List.map_cons]
  refine memLookup_storedMem_last (w := (addr i, e i)) m _ _ k hk ?_
  intro u hu
  obtain ⟨j, hj, rfl⟩ := List.mem_map.mp hu
  simp only [List.mem_range'_1] at hj
  exact last j (by omega) (by omega)

/-- An address outside every range of a store reads as before. -/
theorem memLookup_stored_outside {len n : Nat} (m : Memory) (addr : Nat → Int) (e : Nat → Pat len) (a : Int)
    (h : ∀ i, i < n → ¬ (addr i ≤ a ∧ a < addr i + len)) :
    memLookup (storedMem m ((List.range n).map fun i => (addr i, e i))) a = memLookup m a := by
  refine memLookup_storedMem_outside _ _ _ fun w hw => ?_
  obtain ⟨i, hi, rfl⟩ := List.mem_map.mp hw
  exact h i (List.mem_range.mp hi)

/-! ## Predication -/

theorem maskBits_ok {k : MNum} {n : Nat} {s : State} {ms : List Bool} :
    maskBits k n s = .ok ms ↔
      ∃ b : Nat → Bool, (∀ i, i < n → s.readMask k i = .ok (b i)) ∧ ms = (List.range n).map b := collect_ok

theorem getD_map_range {α : Type} {n i : Nat} (b : Nat → α) (d : α) (h : i < n) :
    ((List.range n).map b).getD i d = b i := by simp [h]

/-- R231: only the elements whose mask bit is 1 are read. -/
theorem collectMasked_ok {α : Type} [Inhabited α] {n : Nat} {b : Nat → Bool} {elem : Nat → Except Fault α}
    {l : List (Option α)} :
    collectMasked n ((List.range n).map b) elem = .ok l ↔
      ∃ g : Nat → α, (∀ i, i < n → b i = true → elem i = .ok (g i)) ∧
        l = (List.range n).map fun i => if b i then some (g i) else none := by
  unfold collectMasked
  rw [collect_ok]
  constructor
  · rintro ⟨h, hh, rfl⟩
    have key : ∀ i, i < n → ∃ a, (b i = true → elem i = .ok a) ∧ h i = if b i then some a else none := by
      intro i hi
      have := hh i hi
      rw [getD_map_range _ _ hi] at this
      cases hb : b i with
      | false =>
        rw [hb] at this
        refine ⟨default, fun h => (nomatch h), ?_⟩
        have := Except.ok.inj this
        rw [← this]; rfl
      | true =>
        rw [hb, if_pos rfl, bind_ok] at this
        obtain ⟨a, h1, h2⟩ := this
        exact ⟨a, fun _ => h1, (Except.ok.inj h2).symm⟩
    have : ∀ i, ∃ a, i < n → (b i = true → elem i = .ok a) ∧ h i = if b i then some a else none := fun i => by
      by_cases hi : i < n
      · obtain ⟨a, ha⟩ := key i hi; exact ⟨a, fun _ => ha⟩
      · exact ⟨default, fun h => absurd h hi⟩
    choose g hg using this
    exact ⟨g, fun i hi => (hg i hi).1, List.map_congr_left fun i hi => (hg i (List.mem_range.mp hi)).2⟩
  · rintro ⟨g, hg, rfl⟩
    refine ⟨fun i => if b i then some (g i) else none, fun i hi => ?_, rfl⟩
    rw [getD_map_range _ _ hi]
    cases hb : b i with
    | false => simp [hb]
    | true => rw [if_pos rfl, hg i hi hb]; simp [hb]

/-- The active elements of a masked write. -/
def belowMasked {α : Type} (n : Nat) (b : Nat → Bool) (f : Nat → α) : Nat → Option α :=
  fun i => if i < n ∧ b i = true then some (f i) else none

theorem writeMasked_ok {t : EType} {vd : VNum} {n : Nat} {b : Nat → Bool} {s u : State}
    {elem : Nat → Except Fault (Pat (ew t))} :
    writeMasked t vd n ((List.range n).map b) s elem = .ok u ↔
      ∃ g : Nat → Pat (ew t), (∀ i, i < n → b i = true → elem i = .ok (g i)) ∧
        u = s.putElems vd t (belowMasked n b g) := by
  have inh : Inhabited (Pat (ew t)) := ⟨Vector.replicate _ .zero⟩
  have key : ∀ g : Nat → Pat (ew t), (fun i => ((List.range n).map fun i => if b i then some (g i) else none).getD i none)
      = belowMasked n b g := by
    intro g; funext i
    by_cases hi : i < n
    · rw [getD_map_range _ _ hi]; simp [belowMasked, hi]
    · simp [belowMasked, hi]
  simp only [writeMasked, bind_ok, pure_ok, Except.ok.injEq, collectMasked_ok]
  constructor
  · rintro ⟨_, ⟨g, hg, rfl⟩, rfl⟩
    exact ⟨g, hg, by rw [key]⟩
  · rintro ⟨g, hg, rfl⟩
    exact ⟨_, ⟨g, hg, rfl⟩, by rw [key]⟩

/-! ## Mask computations -/

theorem compareInto_ok {rel : Int → Int → Bool} {k : MNum} {vs1 vs2 : VNum} {s u : State} :
    compareInto rel k vs1 vs2 s = .ok u ↔
      ∃ (n : Nat) (a b : Nat → Int), s.vl = some n ∧ n ≤ 16 ∧ (∀ i, i < n → s.ve vs1 .p16 i = .ok (a i)) ∧
        (∀ i, i < n → s.ve vs2 .p16 i = .ok (b i)) ∧ u = s.putMask k (below n fun i => rel (a i) (b i)) := by
  simp only [compareInto, bind_ok, activeLen_ok, collect_ok, pure_ok, Except.ok.injEq, map_elems2]
  constructor
  · rintro ⟨n, ⟨h1, h2⟩, _, ⟨g, ⟨a, b, ha, hb, he⟩, rfl⟩, rfl⟩
    exact ⟨n, a, b, h1, h2, ha, hb, by rw [getElem?_map_range, below_congr he]⟩
  · rintro ⟨n, a, b, h1, h2, ha, hb, rfl⟩
    exact ⟨n, ⟨h1, h2⟩, _, ⟨_, ⟨a, b, ha, hb, fun _ _ => rfl⟩, rfl⟩, by rw [getElem?_map_range]⟩

theorem maskBinary_ok {g : Bool → Bool → Bool} {d a b : MNum} {s u : State} :
    maskBinary g d a b s = .ok u ↔
      ∃ (n : Nat) (p q : Nat → Bool), s.vl = some n ∧ (∀ i, i < n → s.readMask a i = .ok (p i)) ∧
        (∀ i, i < n → s.readMask b i = .ok (q i)) ∧ u = s.putMask d (below n fun i => g (p i) (q i)) := by
  simp only [maskBinary, bind_ok, readVL_ok, collect_ok, pure_ok, Except.ok.injEq, map_elems2]
  constructor
  · rintro ⟨n, h1, _, ⟨r, ⟨p, q, hp, hq, he⟩, rfl⟩, rfl⟩
    exact ⟨n, p, q, h1, hp, hq, by rw [getElem?_map_range, below_congr he]⟩
  · rintro ⟨n, p, q, h1, hp, hq, rfl⟩
    exact ⟨n, h1, _, ⟨_, ⟨p, q, hp, hq, fun _ _ => rfl⟩, rfl⟩, by rw [getElem?_map_range]⟩

theorem maskUnary_ok {g : Bool → Bool} {d a : MNum} {s u : State} :
    maskUnary g d a s = .ok u ↔
      ∃ (n : Nat) (p : Nat → Bool), s.vl = some n ∧ (∀ i, i < n → s.readMask a i = .ok (p i)) ∧
        u = s.putMask d (below n fun i => g (p i)) := by
  simp only [maskUnary, bind_ok, readVL_ok, collect_ok, pure_ok, Except.ok.injEq, map_elems]
  constructor
  · rintro ⟨n, h1, _, ⟨r, ⟨p, hp, he⟩, rfl⟩, rfl⟩
    exact ⟨n, p, h1, hp, by rw [getElem?_map_range, below_congr he]⟩
  · rintro ⟨n, p, h1, hp, rfl⟩
    exact ⟨n, h1, _, ⟨_, ⟨p, hp, fun _ _ => rfl⟩, rfl⟩, by rw [getElem?_map_range]⟩

theorem maskReduce_ok {g : List Bool → Int} {rd : XNum} {k : MNum} {s u : State} :
    maskReduce g rd k s = .ok u ↔
      ∃ (n : Nat) (b : Nat → Bool), s.vl = some n ∧ (∀ i, i < n → s.readMask k i = .ok (b i)) ∧
        u = s.putX rd (g ((List.range n).map b)) := by
  simp only [maskReduce, bind_ok, readVL_ok, maskBits_ok, pure_ok, Except.ok.injEq]
  constructor
  · rintro ⟨n, h1, _, ⟨b, hb, rfl⟩, rfl⟩
    exact ⟨n, b, h1, hb, rfl⟩
  · rintro ⟨n, b, h1, hb, rfl⟩
    exact ⟨n, h1, _, ⟨b, hb, rfl⟩, rfl⟩

end Sys2Proof.Machine
end

