-- ==== Sys2Proof/Laws/Families.lean ====
section
/-! SUPPORT. For each operation that a family file shares among its instructions, once, when it answers and
with what. -/

namespace Sys2Proof.Machine

/-! ## Configuration -/

/-- R110: SETVL and SETVLI answer exactly when the request is at least 1. -/
theorem setLength_ok {rd : XNum} {ty : EType} {r : Int} {s u : State} :
    setLength rd ty r s = .ok u ↔
      1 ≤ r ∧ u = { s.putX rd (min r (vlmax ty)) with vl := some (min r (vlmax ty)).toNat } := by
  have hv : 1 ≤ (vlmax ty : Int) := by cases ty <;> decide
  unfold setLength
  simp only []
  split
  · exact ⟨fun h => (nomatch h), fun ⟨h, _⟩ => by omega⟩
  · rw [Except.ok.injEq, eq_comm]
    exact ⟨fun h => ⟨by omega, h⟩, fun h => h.2⟩

theorem setLength_error {rd : XNum} {ty : EType} {r : Int} {s : State} {e : Fault} :
    setLength rd ty r s = .error e ↔ r < 1 ∧ e = .vlRange r := by
  have hv : 1 ≤ (vlmax ty : Int) := by cases ty <;> decide
  unfold setLength
  simp only []
  split
  · have : min r (vlmax ty : Int) = r := by omega
    rw [this, Except.error.injEq, eq_comm]
    exact ⟨fun h => ⟨by omega, h⟩, fun h => h.2⟩
  · exact ⟨fun h => (nomatch h), fun ⟨h, _⟩ => by omega⟩

/-! ## Neural -/

theorem quantise_ok {bound : Int} {vd vs : VNum} {scale : Int} {s u : State} :
    quantise bound vd vs scale s = .ok u ↔
      ∃ (n : Nat) (a : Nat → Int), s.vl = some n ∧ n ≤ 16 ∧ (∀ i, i < n → s.ve vs .p16 i = .ok (a i)) ∧
        u = { s.putElems vd .p16 (below n fun i =>
                if scale = 0 then Config.draw16 (s.draws + i)
                else strOf 16 (clamp (rdiv (a i) scale) (-bound) bound)) with draws := s.draws + n } := by
  simp only [quantise, bind_ok, activeLen_ok, writeActive_ok, pure_ok, Except.ok.injEq, map_elems]
  constructor
  · rintro ⟨n, ⟨h1, h2⟩, _, ⟨e, ⟨a, ha, he⟩, rfl⟩, rfl⟩
    exact ⟨n, a, h1, h2, ha, by rw [below_congr he]⟩
  · rintro ⟨n, a, h1, h2, ha, rfl⟩
    exact ⟨n, ⟨h1, h2⟩, _, ⟨_, ⟨a, ha, fun _ _ => rfl⟩, rfl⟩, rfl⟩

theorem pool_ok {g : List Int → List Int} {vd vs : VNum} {s u : State} :
    pool g vd vs s = .ok u ↔
      ∃ (n : Nat) (a : Nat → Int), s.vl = some n ∧ n ≤ 16 ∧ (∀ i, i < n → s.ve vs .p16 i = .ok (a i)) ∧
        u = s.putElems vd .p16 fun k => (((g ((List.range n).map a)).take n)[k]?).map (strOf 16) := by
  simp only [pool, bind_ok, activeLen_ok, collect_ok, pure_ok, Except.ok.injEq]
  constructor
  · rintro ⟨n, ⟨h1, h2⟩, _, ⟨a, ha, rfl⟩, rfl⟩
    exact ⟨n, a, h1, h2, ha, rfl⟩
  · rintro ⟨n, a, h1, h2, ha, rfl⟩
    exact ⟨n, ⟨h1, h2⟩, _, ⟨a, ha, rfl⟩, rfl⟩

/-! ## Matrix -/

theorem rowDot_ok {b : GNum} {vs : VNum} {n : Nat} {s : State} {r : Fin 4} {z : Int} :
    rowDot b vs n s r = .ok z ↔
      ∃ m a : Nat → Int, (∀ j, j < n → s.ve (groupReg b r) .p16 j = .ok (m j)) ∧
        (∀ j, j < n → s.ve vs .p16 j = .ok (a j)) ∧ z = ((List.range n).map fun j => m j * a j).sum := by
  simp only [rowDot, bind_ok, collect_ok, pure_ok, Except.ok.injEq, map_elems2]
  constructor
  · rintro ⟨_, ⟨g, ⟨m, a, hm, ha, hg⟩, rfl⟩, rfl⟩
    exact ⟨m, a, hm, ha, by rw [List.map_congr_left fun i hi => hg i (List.mem_range.mp hi)]⟩
  · rintro ⟨m, a, hm, ha, rfl⟩
    exact ⟨_, ⟨_, ⟨m, a, hm, ha, fun _ _ => rfl⟩, rfl⟩, rfl⟩

theorem outerRow_eq {vs1 vs2 : VNum} {n : Nat} {s : State} {i : Nat} {c : Int} {b : Nat → Int}
    (hc : s.ve vs1 .p16 i = .ok c) (hb : ∀ j, j < n → s.ve vs2 .p16 j = .ok (b j)) :
    outerRow vs1 vs2 n s i = .ok ((List.range n).map fun j => c * b j) :=
  collect_eq fun j hj => by rw [hc, hb j hj]; rfl

/-- Row `i` of an outer product answers exactly when its operands do. -/
theorem outerRow_ok {vs1 vs2 : VNum} {n : Nat} {s : State} {i : Nat} {l : List Int} :
    outerRow vs1 vs2 n s i = .ok l ↔
      ∃ a b : Nat → Int, (∀ j, j < n → s.ve vs1 .p16 i = .ok (a j)) ∧
        (∀ j, j < n → s.ve vs2 .p16 j = .ok (b j)) ∧ l = (List.range n).map fun j => a j * b j := by
  simp only [outerRow, collect_ok, bind_ok, pure_ok, Except.ok.injEq, map_elems2]
  constructor
  · rintro ⟨g, ⟨a, b, ha, hb, hg⟩, rfl⟩
    exact ⟨a, b, ha, hb, List.map_congr_left fun i hi => hg i (List.mem_range.mp hi)⟩
  · rintro ⟨a, b, ha, hb, rfl⟩
    exact ⟨_, ⟨a, b, ha, hb, fun _ _ => rfl⟩, rfl⟩

theorem putRow_map (s : State) (vd : VNum) (n : Nat) (g : Nat → Int) :
    putRow s vd ((List.range n).map g) = s.putElems vd .p16 (below n fun j => strOf 16 (g j)) := by
  unfold putRow
  congr 1
  funext j
  by_cases hj : j < n <;> simp [below, hj]

/-! ## Loads and stores -/

theorem loadUnit_ok {t : EType} {vd : VNum} {base : XNum} {s u : State} :
    loadUnit t vd base s = .ok u ↔
      ∃ (n : Nat) (b : Int) (g : Nat → Pat (ew t)), s.vl = some n ∧ n ≤ epr t ∧ s.xval base = .ok b ∧
        (∀ i, i < n → s.memReadRaw (b + i * ew t) (ew t) = .ok (g i)) ∧ u = s.putElems vd t (below n g) := by
  simp only [loadUnit, bind_ok, baseAddr_ok, loadActive_ok]
  constructor
  · rintro ⟨⟨n, b⟩, ⟨h1, h2, h3⟩, g, hg, rfl⟩; exact ⟨n, b, g, h1, h2, h3, hg, rfl⟩
  · rintro ⟨n, b, g, h1, h2, h3, hg, rfl⟩; exact ⟨(n, b), ⟨h1, h2, h3⟩, g, hg, rfl⟩

theorem storeUnit_ok {t : EType} {vs : VNum} {base : XNum} {s u : State} :
    storeUnit t vs base s = .ok u ↔
      ∃ (n : Nat) (b : Int) (e : Nat → Pat (ew t)), s.vl = some n ∧ n ≤ epr t ∧ s.xval base = .ok b ∧
        (∀ i, i < n → s.vraw vs t i = .ok (e i)) ∧
        (∀ i : Nat, i < n → s.storeFault (ew t) (b + i * ew t) = none) ∧
        u = { s with mem := storedMem s.mem ((List.range n).map fun (i : Nat) => (b + (i : Int) * ew t, e i)) } := by
  simp only [storeUnit, bind_ok, baseAddr_ok, storeActive_ok]
  constructor
  · rintro ⟨⟨n, b⟩, ⟨h1, h2, h3⟩, e, he, hf, rfl⟩; exact ⟨n, b, e, h1, h2, h3, he, hf, rfl⟩
  · rintro ⟨n, b, e, h1, h2, h3, he, hf, rfl⟩; exact ⟨(n, b), ⟨h1, h2, h3⟩, e, he, hf, rfl⟩

theorem wholeSegments_ok {n k : Nat} {x : Unit} : wholeSegments n k = .ok x ↔ n % k = 0 := by
  unfold wholeSegments; split <;> simp_all

theorem wholeSegments_error {n k : Nat} {e : Fault} :
    wholeSegments n k = .error e ↔ n % k ≠ 0 ∧ e = .segVL n k := by
  unfold wholeSegments; split <;> simp_all [eq_comm]

theorem loadSegments_ok {k : Nat} {vd : VNum} {base : XNum} {s u : State} :
    loadSegments k vd base s = .ok u ↔
      ∃ (n : Nat) (b : Int) (g : Nat → Pat (ew .p16)), s.vl = some n ∧ n ≤ 16 ∧ s.xval base = .ok b ∧ n % k = 0 ∧
        (∀ i : Nat, i < n → s.memReadRaw (b + i * 16) (ew .p16) = .ok (g i)) ∧
        u = s.putElems vd .p16 (below n g) := by
  simp only [loadSegments, bind_ok, baseAddr_ok, loadActive_ok, wholeSegments_ok]
  constructor
  · rintro ⟨⟨n, b⟩, ⟨h1, h2, h3⟩, _, h4, g, hg, rfl⟩; exact ⟨n, b, g, h1, h2, h3, h4, hg, rfl⟩
  · rintro ⟨n, b, g, h1, h2, h3, h4, hg, rfl⟩; exact ⟨(n, b), ⟨h1, h2, h3⟩, (), h4, g, hg, rfl⟩

/-! ## Permutation -/

theorem checkIndex_ok {j : Int} {n k : Nat} : checkIndex j n = .ok k ↔ j = k ∧ k < n := by
  unfold checkIndex; split
  · exact ⟨fun h => (nomatch h), fun ⟨h, _⟩ => by omega⟩
  · rw [Except.ok.injEq]; omega

theorem checkIndex_error {j : Int} {n : Nat} {e : Fault} :
    checkIndex j n = .error e ↔ (j < 0 ∨ (n : Int) ≤ j) ∧ e = .indexRange j n := by
  unfold checkIndex; split
  · next h => rw [Except.error.injEq, eq_comm]; exact ⟨fun h' => ⟨h, h'⟩, fun h' => h'.2⟩
  · next h => exact ⟨fun h' => (nomatch h'), fun h' => absurd h'.1 h⟩

theorem pairPermute_ok {cat : List (Pat 16 × Pat 16) → List (Pat 16)} {sel1 sel2 : Nat → Nat → Nat}
    {vd1 vd2 vs1 vs2 : VNum} {s u : State} :
    pairPermute cat sel1 sel2 vd1 vd2 vs1 vs2 s = .ok u ↔
      ∃ (n : Nat) (a b : Nat → Pat 16), s.vl = some n ∧ n ≤ 16 ∧ (∀ i, i < n → s.vraw vs1 .p16 i = .ok (a i)) ∧
        (∀ i, i < n → s.vraw vs2 .p16 i = .ok (b i)) ∧
        u = (s.putElems vd1 .p16 fun j =>
              if j < n then (cat ((List.range n).map fun k => (a k, b k)))[sel1 n j]? else none).putElems vd2 .p16
              fun j => if j < n then (cat ((List.range n).map fun k => (a k, b k)))[sel2 n j]? else none := by
  have : Inhabited (Pat (ew .p16)) := ⟨Vector.replicate _ .zero⟩
  have : Inhabited (Pat 16) := ⟨Vector.replicate _ .zero⟩
  simp only [pairPermute, bind_ok, activeLen_ok, collect_ok, pure_ok, Except.ok.injEq, map_elems2]
  constructor
  · rintro ⟨n, ⟨h1, h2⟩, _, ⟨g, ⟨a, b, ha, hb, hg⟩, rfl⟩, rfl⟩
    rw [List.map_congr_left fun i hi => hg i (List.mem_range.mp hi)]
    exact ⟨n, a, b, h1, h2, ha, hb, rfl⟩
  · rintro ⟨n, a, b, h1, h2, ha, hb, rfl⟩
    exact ⟨n, ⟨h1, h2⟩, _, ⟨_, ⟨a, b, ha, hb, fun _ _ => rfl⟩, rfl⟩, rfl⟩

/-- R254: entries `2k` and `2k + 1` of the interleaved sequence. -/
theorem interleave_getElem? (ps : List (Pat 16 × Pat 16)) (k : Nat) :
    (interleave ps)[2 * k]? = (ps[k]?).map Prod.fst ∧ (interleave ps)[2 * k + 1]? = (ps[k]?).map Prod.snd := by
  induction ps generalizing k with
  | nil => simp [interleave]
  | cons p ps ih =>
    obtain ⟨a, b⟩ := p
    cases k with
    | zero => simp [interleave]
    | succ k =>
      have e : 2 * (k + 1) = 2 * k + 1 + 1 := by omega
      rw [e]
      simpa [interleave] using ih k

theorem interleave_length (ps : List (Pat 16 × Pat 16)) : (interleave ps).length = 2 * ps.length := by
  induction ps with
  | nil => rfl
  | cons p ps ih => obtain ⟨a, b⟩ := p; simp [interleave, ih]; omega

/-- R255: the concatenation holds the first sequence, then the second. -/
theorem catenate_getElem? (ps : List (Pat 16 × Pat 16)) (j : Nat) :
    (catenate ps)[j]? =
      if j < ps.length then (ps[j]?).map Prod.fst else (ps[j - ps.length]?).map Prod.snd := by
  unfold catenate
  by_cases h : j < ps.length
  · rw [if_pos h, List.getElem?_append_left (by simpa using h)]; simp
  · rw [if_neg h, List.getElem?_append_right (by simpa using h)]; simp

end Sys2Proof.Machine
end

