-- ==== Sys2Proof/Laws/Results.lean ====
section
/-! SUPPORT. The updates of Ops.lean in the terms of Safety.lean: what a completed instruction may have
changed once its one update and the advance of pc are known. -/

namespace Sys2Proof.Machine

/-! ## The terms of Safety.lean and the reads of Ops.lean -/

theorem activeLen_active {s : State} {t : EType} {n : Nat} : activeLen t s = .ok n ↔ Active s t n := activeLen_ok

theorem readMask_holds {s : State} {k : MNum} {n : Nat} {b : Nat → Bool} :
    (∀ i, i < n → s.readMask k i = .ok (b i)) ↔ HoldsBits s k n b := by
  simp only [readMask_ok]; rfl

theorem memReadRaw_spells {s : State} {a : Int} {len : Nat} {e : Pat len} :
    s.memReadRaw a len = .ok e ↔ Spells s len a e := by
  rw [memReadRaw_ok]
  refine forall_congr' fun k => forall_congr' fun hk => ?_
  rw [validAddr_iff, and_assoc]

theorem storeFault_storable {s : State} {len : Nat} {a : Int} : s.storeFault len a = none ↔ Storable s len a := by
  rw [storeFault_none]
  constructor
  · intro h b hb
    obtain ⟨h1, h2⟩ := h (b - a).toNat (by have := hb.1; have := hb.2; omega)
    have e : a + ((b - a).toNat : Int) = b := by have := hb.1; omega
    rw [e] at h1 h2
    rw [validAddr_iff] at h1
    exact ⟨h1.1, h1.2, fun hc => by rw [(inCode_iff s b).mpr hc] at h2; cases h2⟩
  · intro h k hk
    obtain ⟨h1, h2, h3⟩ := h (a + k) ⟨by omega, by omega⟩
    exact ⟨(validAddr_iff s _).mpr ⟨h1, h2⟩, by
      cases hc : s.inCode (a + k)
      · rfl
      · exact absurd ((inCode_iff s _).mp hc) h3⟩

/-! ## Reads after an update of another kind -/

@[simp] theorem State.advance_vpent (s : State) (m : VNum) (p : Nat) : s.advance.vpent m p = s.vpent m p := rfl

@[simp] theorem State.advance_vraw (s : State) (m : VNum) (t : EType) (i : Nat) :
    s.advance.vraw m t i = s.vraw m t i := rfl

@[simp] theorem State.advance_ve (s : State) (m : VNum) (t : EType) (i : Nat) : s.advance.ve m t i = s.ve m t i := rfl

@[simp] theorem State.advance_xraw (s : State) (r : XNum) : s.advance.xraw r = s.xraw r := rfl

@[simp] theorem State.advance_xval (s : State) (r : XNum) : s.advance.xval r = s.xval r := rfl

@[simp] theorem State.advance_mbit (s : State) (k : MNum) (i : Nat) : s.advance.mbit k i = s.mbit k i := rfl

@[simp] theorem State.advance_memPent (s : State) (a : Int) : s.advance.memPent a = s.memPent a := rfl

/-! ## Vector results -/

/-- The elements written are those of `below`. -/
theorem onlyElements_putElems (s : State) (t : EType) (vd : VNum) (val : Nat → Option (Pat (ew t))) (w : Nat → Prop)
    (h : ∀ i, ¬ w i → val i = none) : OnlyElements s (s.putElems vd t val).advance t (· = vd) w where
  vectors m p hp := by
    rw [State.advance_vpent, vpent_putElems_kept]
    rcases hp with hp | hp | hp
    · exact .inl hp
    · exact .inr (.inl ((Nat.le_div_iff_mul_le (ew_pos t)).mp hp))
    · exact .inr (.inr (h _ hp))
  memory _ := rfl
  rest := rfl

/-- A write of raw elements, then the advance of pc. -/
theorem rawResult_putElems (s : State) (t : EType) (vd : VNum) (val : Nat → Option (Pat (ew t))) (w : Nat → Prop)
    (g : Nat → Pat (ew t)) (hw : ∀ i, w i → i < epr t ∧ val i = some (g i)) (h : ∀ i, ¬ w i → val i = none) :
    RawResult s (s.putElems vd t val).advance t vd w g :=
  ⟨fun i hi => by
    rw [State.advance_vraw]
    exact vraw_putElems_written _ _ _ _ _ _ (hw i hi).1 (hw i hi).2, onlyElements_putElems _ _ _ _ _ h⟩

/-- A write of the strings of integers, then the advance of pc. -/
theorem intResult_putElems (s : State) (t : EType) (vd : VNum) (val : Nat → Option (Pat (ew t))) (w : Nat → Prop)
    (g : Nat → Int) (hw : ∀ i, w i → i < epr t ∧ val i = some (strOf (ew t) (g i))) (h : ∀ i, ¬ w i → val i = none) :
    IntResult s (s.putElems vd t val).advance t vd w g :=
  ⟨fun i hi => by
    rw [State.advance_ve, ve_putElems_written _ _ _ _ _ _ (hw i hi).1 (hw i hi).2, ival_strOf],
    onlyElements_putElems _ _ _ _ _ h⟩

theorem rawResult_below (s : State) (t : EType) (vd : VNum) (n : Nat) (g : Nat → Pat (ew t)) (hn : n ≤ epr t) :
    RawResult s (s.putElems vd t (below n g)).advance t vd (· < n) g :=
  rawResult_putElems _ _ _ _ _ _ (fun _ hi => ⟨lt_of_lt_of_le hi hn, below_lt g hi⟩)
    fun _ hi => below_ge g (Nat.le_of_not_lt hi)

theorem intResult_below (s : State) (t : EType) (vd : VNum) (n : Nat) (g : Nat → Int) (hn : n ≤ epr t) :
    IntResult s (s.putElems vd t (below n fun i => strOf (ew t) (g i))).advance t vd (· < n) g :=
  intResult_putElems _ _ _ _ _ _ (fun _ hi => ⟨lt_of_lt_of_le hi hn, below_lt _ hi⟩)
    fun _ hi => below_ge _ (Nat.le_of_not_lt hi)

/-! ## Scalar, mask and memory results -/

theorem onlyScalar_setX (s : State) (rd : XNum) (p : Pat 16) : OnlyScalar s (s.setX rd p).advance rd where
  scalars r hr := by rw [State.advance_xraw, xraw_setX, if_neg hr]
  memory _ := rfl
  rest := rfl

theorem onlyScalar_putX (s : State) (rd : XNum) (val : Int) : OnlyScalar s (s.putX rd val).advance rd :=
  onlyScalar_setX s rd _

theorem scalarResult_putX (s : State) (rd : XNum) (val : Int) : ScalarResult s (s.putX rd val).advance rd val :=
  ⟨by rw [State.advance_xval, xval_putX, if_pos rfl], onlyScalar_putX s rd _⟩

theorem maskResult_below (s : State) (k : MNum) (n : Nat) (g : Nat → Bool) (hn : n ≤ 18) :
    MaskResult s (s.putMask k (below n g)).advance k n g where
  written i hi := by
    rw [State.advance_mbit, mbit_putMask _ _ _ _ _ (by omega), if_pos rfl, below_lt _ hi]; rfl
  masks j i h := by
    rw [State.advance_mbit, mbit_putMask_kept]
    rcases h with h | h
    · exact .inl h
    · exact .inr (below_ge _ h)
  memory _ := rfl
  rest := rfl

/-- Bits that a state holds have an index below 18. -/
theorem holdsBits_le {s : State} {k : MNum} {n : Nat} {b : Nat → Bool} (h : HoldsBits s k n b) : n ≤ 18 := by
  by_contra hn
  have := h 18 (by omega)
  rw [mbit_beyond s k 18 (le_refl _)] at this
  cases this

/-- Stores in ascending element order, then the advance of pc. -/
theorem storeResult_below (s : State) (len n : Nat) (addr : Nat → Int) (e : Nat → Pat len) :
    StoreResult s (State.advance { s with mem := storedMem s.mem ((List.range n).map fun i => (addr i, e i)) }) len
      (· < n) addr e where
  written i k hk hi hl := memLookup_stored_last s.mem addr e i k hi hk fun j h1 h2 h3 => hl j h1 h2 h3
  memory a ha := memLookup_stored_outside s.mem addr e a fun i hi h => ha i hi h
  rest := rfl

end Sys2Proof.Machine
end

