-- ==== Sys2Proof/Laws/Step.lean ====
section
/-! SUPPORT. Fetch, decode and run: what one step does, and what loading a word sets up. -/

namespace Sys2Proof.Machine

theorem pcLegal_iff (s : State) :
    s.pcLegal = true ↔ s.codeLo ≤ s.pc ∧ s.pc + 24 ≤ s.codeHi ∧ (s.pc - s.codeLo) % 24 = 0 := by
  simp [State.pcLegal, Config.ilen, and_assoc]

/-- R57: the word fetched is the one whose pent `k` is at `pc + k`. -/
theorem fetch_ok {s : State} {w : InstrWord} : s.fetch = .ok w ↔ Spells s 24 s.pc w := memReadRaw_spells

theorem runWord_ok {w : InstrWord} {i : Instr} (h : decode w = .ok i) (s : State) : runWord w s = exec i s := by
  unfold runWord; rw [h]

theorem runWord_reserved {w : InstrWord} {r : Reject} (h : decode w = .error r) (s : State) :
    runWord w s = .fault (.illegalInstruction w) := by
  unfold runWord; rw [h]

theorem runNext_end {s : State} (h : s.pc = s.codeHi) : runNext s = .refused .endOfProgram := if_pos h

theorem runNext_illegal {s : State} (h : s.pc ≠ s.codeHi) (hp : s.pcLegal = false) :
    runNext s = .refused (.illegalLaunch s.pc) := by
  unfold runNext; rw [if_neg h, hp]; rfl

theorem runNext_fetched {s : State} {w : InstrWord} (hp : s.pcLegal = true) (hw : s.fetch = .ok w) :
    runNext s = runWord w s := by
  have h : s.pc ≠ s.codeHi := by have := (pcLegal_iff s).mp hp; omega
  unfold runNext; rw [if_neg h, if_pos hp, hw]

theorem runNext_fault {s : State} {f : Fault} (hp : s.pcLegal = true) (hf : s.fetch = .error f) :
    runNext s = .fault f := by
  have h : s.pc ≠ s.codeHi := by have := (pcLegal_iff s).mp hp; omega
  unfold runNext; rw [if_neg h, if_pos hp, hf]

theorem step_recorded {s : State} {f : Fault} (h : s.fault = some f) : step s = .fault f := by
  unfold step; rw [h]

theorem step_running {s : State} (h : s.fault = none) : step s = runNext s := by
  unfold step; rw [h]

/-- Everything a step that goes on did: the word at pc decodes to an instruction, and the next state is that
instruction's. -/
theorem step_next {s u : State} (h : step s = .next u) :
    s.fault = none ∧ s.pcLegal = true ∧ ∃ w i, s.fetch = .ok w ∧ decode w = .ok i ∧ exec i s = .next u := by
  cases hf : s.fault with
  | some f => rw [step_recorded hf] at h; cases h
  | none =>
    rw [step_running hf] at h
    unfold runNext at h
    split at h
    · cases h
    · split at h
      · next hp =>
        split at h
        · next w hw =>
          unfold runWord at h
          split at h
          · next i hi => exact ⟨rfl, hp, w, i, hw, hi, h⟩
          · cases h
        · cases h
      · cases h

/-- R57: the word that is loaded is the word that is fetched. -/
theorem fetch_loadWord (s : State) (w : InstrWord) : (s.loadWord w).fetch = .ok w := by
  rw [fetch_ok]
  intro k hk
  have e : (s.loadWord w).pc = s.pc := rfl
  rw [e]
  have h1 : (s.loadWord w).memLo = min s.memLo s.pc := rfl
  have h2 : (s.loadWord w).memHi = max s.memHi (s.pc + 24) := rfl
  refine ⟨by rw [h1]; omega, by rw [h2]; omega, ?_⟩
  show memLookup (writePents s.mem s.pc w.toList) (s.pc + k) = _
  rw [memLookup_writePents, Vector.length_toList, if_pos (by omega)]
  have : (s.pc + (k : Int) - s.pc).toNat = k := by omega
  rw [this]; simp [hk]

theorem pcLegal_loadWord (s : State) (w : InstrWord) : (s.loadWord w).pcLegal = true := by
  rw [pcLegal_iff]
  have h1 : (s.loadWord w).pc = s.pc := rfl
  have h2 : (s.loadWord w).codeHi = max s.codeHi (s.pc + 24) := rfl
  have h3 : (s.loadWord w).codeLo = if s.codeLo ≤ s.pc ∧ (s.pc - s.codeLo) % 24 = 0 then s.codeLo else s.pc := rfl
  rw [h1, h2, h3]
  split
  · next h => exact ⟨h.1, by omega, h.2⟩
  · exact ⟨le_refl _, by omega, by simp⟩

/-- The step after a word is loaded runs that word. -/
theorem step_loadWord (s : State) (w : InstrWord) : step (s.loadWord w) = runWord w (s.loadWord w) := by
  rw [step_running (by rfl), runNext_fetched (pcLegal_loadWord s w) (fetch_loadWord s w)]

end Sys2Proof.Machine
end

