-- ==== Sys2Proof/Tests/Slice0.lean ====
section
/-! SUPPORT. Tests: ill-formed terms, the spec's encoded words, one-step vectors of 95_test_vectors.md, and for
every statement with hypotheses a concrete state that meets them. -/

namespace Sys2Proof.Tests

open Sys2Proof.Machine

set_option Elab.async false

/-! ## Ill-formed terms are refused (R82, R97) -/

theorem test_wf_immediate_bounds : immOk 976562 = true ∧ immOk 976563 = false ∧ immOk (-976562) = true ∧
    immOk (-976563) = false := by decide +kernel
theorem test_wf_setvli : (Instr.setvli 0 976563).wellFormed = false := by decide +kernel
theorem test_wf_integer_immediates : (Instr.vaddViP16 0 0 976563).wellFormed = false ∧
    (Instr.vmulViP16 0 0 (-976563)).wellFormed = false := by decide +kernel
theorem test_wf_neural_immediates : (Instr.vlreluP16 0 0 976563).wellFormed = false ∧
    (Instr.vquant5P16 0 0 976563).wellFormed = false ∧ (Instr.vdequant5F16 0 0 (-976563)).wellFormed = false ∧
    (Instr.vquant25P16 0 0 976563).wellFormed = false := by decide +kernel
theorem test_wf_crossbar_address : (Instr.vmmcrossP16 0 0 976563).wellFormed = false := by decide +kernel
theorem test_wf_permutation_immediates : (Instr.vrotP16 0 0 976563).wellFormed = false ∧
    (Instr.vextractP16 0 0 (-976563)).wellFormed = false ∧ (Instr.vinsertP16 0 0 976563).wellFormed = false := by decide +kernel
theorem test_wf_pairs : (Instr.vwmulP16 6 6 1 2).wellFormed = false ∧ (Instr.vzipP16 5 5 1 2).wellFormed = false ∧
    (Instr.vunzipP16 5 5 1 2).wellFormed = false ∧ (Instr.vzipP16 5 6 5 6).wellFormed = true := by decide +kernel

/-! ## The words of 95_test_vectors.md, sections 2.10 and 2.9 -/

theorem test_decode_configuration :
    decode (wordOfCodes 011110320000000000000000) = .ok (.setvl 31 17) ∧
    decode (wordOfCodes 011110000000001000000043) = .ok (.setvli 31 (-7)) ∧
    decode (wordOfCodes 010000000000002000000011) = .ok (.vsettype .f28) ∧
    decode (wordOfCodes 011110000000003000000000) = .ok (.vgetcfg 31) := by decide +kernel
theorem test_decode_integer :
    decode (wordOfCodes 021110320130010000000000) = .ok (.vaddP16 31 17 8) ∧
    decode (wordOfCodes 021110320130020000000000) = .ok (.vaddP28 31 17 8) ∧
    decode (wordOfCodes 021110320130000000000000) = .ok (.vaddP14 31 17 8) ∧
    decode (wordOfCodes 021110320130011000000000) = .ok (.vsubP16 31 17 8) ∧
    decode (wordOfCodes 021110320130021000000000) = .ok (.vsubP28 31 17 8) ∧
    decode (wordOfCodes 021110320000012000000000) = .ok (.vnegP16 31 17) ∧
    decode (wordOfCodes 021110320130013000000000) = .ok (.vmulP16 31 17 8) ∧
    decode (wordOfCodes 021110320130014000000110) = .ok (.vwmulP16 31 30 17 8) ∧
    decode (wordOfCodes 031110320130010000000000) = .ok (.vdivP16 31 17 8) ∧
    decode (wordOfCodes 031110320130011000000000) = .ok (.vmodP16 31 17 8) ∧
    decode (wordOfCodes 041110320130010000000000) = .ok (.vaddVxP16 31 17 8) ∧
    decode (wordOfCodes 041110320000011000000043) = .ok (.vaddViP16 31 17 (-7)) := by decide +kernel
theorem test_decode_integer_2 :
    decode (wordOfCodes 041110320130012000000000) = .ok (.vmulVxP16 31 17 8) ∧
    decode (wordOfCodes 041110320000013000000043) = .ok (.vmulViP16 31 17 (-7)) ∧
    decode (wordOfCodes 101110320000010000000000) = .ok (.vredsumP16 31 17) ∧
    decode (wordOfCodes 101110320000011000000000) = .ok (.vredmaxP16 31 17) ∧
    decode (wordOfCodes 101110320000012000000000) = .ok (.vredminP16 31 17) ∧
    decode (wordOfCodes 101110320130013000000000) = .ok (.vdotP16 31 17 8) ∧
    decode (wordOfCodes 110120320130010000000000) = .ok (.vmseqP16 7 17 8) ∧
    decode (wordOfCodes 110120320130011000000000) = .ok (.vmsneP16 7 17 8) ∧
    decode (wordOfCodes 110120320130012000000000) = .ok (.vmsltP16 7 17 8) ∧
    decode (wordOfCodes 110120320130013000000000) = .ok (.vmsleP16 7 17 8) ∧
    decode (wordOfCodes 110120320130014000000000) = .ok (.vmsgtP16 7 17 8) ∧
    decode (wordOfCodes 120120320130010000000000) = .ok (.vmsgeP16 7 17 8) := by decide +kernel
theorem test_decode_float :
    decode (wordOfCodes 131110320130010000000000) = .ok (.vfaddF16 31 17 8) ∧
    decode (wordOfCodes 131110320130020000000000) = .ok (.vfaddF28 31 17 8) ∧
    decode (wordOfCodes 131110320130011000000000) = .ok (.vfsubF16 31 17 8) ∧
    decode (wordOfCodes 131110320130021000000000) = .ok (.vfsubF28 31 17 8) ∧
    decode (wordOfCodes 131110320130012000000000) = .ok (.vfmulF16 31 17 8) ∧
    decode (wordOfCodes 131110320130022000000000) = .ok (.vfmulF28 31 17 8) ∧
    decode (wordOfCodes 131110320130013000000000) = .ok (.vfdivF16 31 17 8) ∧
    decode (wordOfCodes 131110320130023000000000) = .ok (.vfdivF28 31 17 8) ∧
    decode (wordOfCodes 141110320130010000000110) = .ok (.vfmaddF16 31 17 8 30) ∧
    decode (wordOfCodes 141110320130011000000110) = .ok (.vfmsubF16 31 17 8 30) ∧
    decode (wordOfCodes 141110320130012000000110) = .ok (.vfnmaddF16 31 17 8 30) ∧
    decode (wordOfCodes 201110320000010000000000) = .ok (.vfsqrtF16 31 17) := by decide +kernel
theorem test_decode_float_2 :
    decode (wordOfCodes 201110320000011000000000) = .ok (.vfrcpF16 31 17) ∧
    decode (wordOfCodes 201110320000012000000000) = .ok (.vfrsqrtF16 31 17) ∧
    decode (wordOfCodes 201110320130013000000000) = .ok (.vfminF16 31 17 8) ∧
    decode (wordOfCodes 201110320130014000000000) = .ok (.vfmaxF16 31 17 8) ∧
    decode (wordOfCodes 211110320000010000000000) = .ok (.vfabsF16 31 17) ∧
    decode (wordOfCodes 211110320000011000000000) = .ok (.vfnegF16 31 17) := by decide +kernel
theorem test_decode_neural :
    decode (wordOfCodes 221110320000010000000000) = .ok (.vreluP16 31 17) ∧
    decode (wordOfCodes 221110320000011000000000) = .ok (.vreluF16 31 17) ∧
    decode (wordOfCodes 221110320000012000000043) = .ok (.vlreluP16 31 17 (-7)) ∧
    decode (wordOfCodes 221110320000013000000000) = .ok (.vsigmoidF16 31 17) ∧
    decode (wordOfCodes 221110320000014000000000) = .ok (.vtanhF16 31 17) ∧
    decode (wordOfCodes 231110320000010000000000) = .ok (.vexpF16 31 17) ∧
    decode (wordOfCodes 231110320000011000000000) = .ok (.vredsumF16 31 17) ∧
    decode (wordOfCodes 131110320130014000000000) = .ok (.vfdivVxF16 31 17 8) ∧
    decode (wordOfCodes 241110320000010000000043) = .ok (.vquant5P16 31 17 (-7)) ∧
    decode (wordOfCodes 241110320000011000000043) = .ok (.vdequant5F16 31 17 (-7)) ∧
    decode (wordOfCodes 241110320000012000000043) = .ok (.vquant25P16 31 17 (-7)) ∧
    decode (wordOfCodes 301110320000010000000000) = .ok (.vmaxpool2P16 31 17) := by decide +kernel
theorem test_decode_neural_2 :
    decode (wordOfCodes 301110320000011000000000) = .ok (.vavgpool2P16 31 17) ∧
    decode (wordOfCodes 301110320000012000000000) = .ok (.vgavgpoolP16 31 17) := by decide +kernel
theorem test_decode_matrix :
    decode (wordOfCodes 311111030130010000000000) = .ok (.vmatvecP16 31 28 8) ∧
    decode (wordOfCodes 311030320130011000000000) = .ok (.vouterP16 28 17 8) ∧
    decode (wordOfCodes 311110320000012000000043) = .ok (.vmmcrossP16 31 17 (-7)) := by decide +kernel
theorem test_decode_memory :
    decode (wordOfCodes 321110320000010000000000) = .ok (.vldP16 31 17) ∧
    decode (wordOfCodes 321110320000020000000000) = .ok (.vldP28 31 17) ∧
    decode (wordOfCodes 321110320000011000000000) = .ok (.vldF16 31 17) ∧
    decode (wordOfCodes 321110320000012000000000) = .ok (.vstP16 31 17) ∧
    decode (wordOfCodes 321110320000022000000000) = .ok (.vstP28 31 17) ∧
    decode (wordOfCodes 321110320000013000000000) = .ok (.vstF16 31 17) ∧
    decode (wordOfCodes 331110320130010000000000) = .ok (.vldsP16 31 17 8) ∧
    decode (wordOfCodes 331110320130011000000000) = .ok (.vstsP16 31 17 8) ∧
    decode (wordOfCodes 331110320130012000000000) = .ok (.vldiP16 31 17 8) ∧
    decode (wordOfCodes 331110320130013000000000) = .ok (.vstiP16 31 17 8) ∧
    decode (wordOfCodes 341110320000010000000000) = .ok (.vlseg2P16 31 17) ∧
    decode (wordOfCodes 341110320000011000000000) = .ok (.vlseg3P16 31 17) := by decide +kernel
theorem test_decode_memory_2 :
    decode (wordOfCodes 341110320000012000000000) = .ok (.vlseg4P16 31 17) ∧
    decode (wordOfCodes 341110320000013000000000) = .ok (.vsseg2P16 31 17) := by decide +kernel
theorem test_decode_masked :
    decode (wordOfCodes 021110320131110000000000) = .ok (.vaddP16M 31 17 8 5) ∧
    decode (wordOfCodes 321110320001110000000000) = .ok (.vldP16M 31 17 5) ∧
    decode (wordOfCodes 321110320001112000000000) = .ok (.vstP16M 31 17 5) ∧
    decode (wordOfCodes 401110110000000000000000) = .ok (.vmpopc 31 6) ∧
    decode (wordOfCodes 401110110000001000000000) = .ok (.vmffs 31 6) ∧
    decode (wordOfCodes 400120110100002000000000) = .ok (.vmand 7 6 5) ∧
    decode (wordOfCodes 400120110100003000000000) = .ok (.vmor 7 6 5) ∧
    decode (wordOfCodes 400120110100004000000000) = .ok (.vmxor 7 6 5) ∧
    decode (wordOfCodes 410120110000000000000000) = .ok (.vmnot 7 6) := by decide +kernel
theorem test_decode_permute :
    decode (wordOfCodes 421110320130010000000000) = .ok (.vpermP16 31 17 8) ∧
    decode (wordOfCodes 421110320000011000000000) = .ok (.vrevP16 31 17) ∧
    decode (wordOfCodes 421110320000012000000043) = .ok (.vrotP16 31 17 (-7)) ∧
    decode (wordOfCodes 421110320130013000000110) = .ok (.vzipP16 31 30 17 8) ∧
    decode (wordOfCodes 421110320130014000000110) = .ok (.vunzipP16 31 30 17 8) ∧
    decode (wordOfCodes 431110320000010000000000) = .ok (.vbroadcastP16 31 17) ∧
    decode (wordOfCodes 431110320000011000000043) = .ok (.vextractP16 31 17 (-7)) ∧
    decode (wordOfCodes 431110320000012000000043) = .ok (.vinsertP16 31 17 (-7)) := by decide +kernel
theorem test_reserved_reserved_opcode :
    decode (wordOfCodes 000000000000000000000000) = .error .reservedOpcode ∧
    decode (wordOfCodes 440000000000000000000000) = .error .reservedOpcode ∧
    decode (wordOfCodes 030030010020012000000000) = .error .reservedOpcode := by decide +kernel
theorem test_reserved_unassigned_width :
    decode (wordOfCodes 020030010020001000000000) = .error .unassignedWidth ∧
    decode (wordOfCodes 020030010020030000000000) = .error .unassignedWidth ∧
    decode (wordOfCodes 020030010020040000000000) = .error .unassignedWidth := by decide +kernel
theorem test_reserved_predicate_field :
    decode (wordOfCodes 020030010020111000000000) = .error .predicateField ∧
    decode (wordOfCodes 020030010021410000000000) = .error .predicateField := by decide +kernel
theorem test_reserved_unused_field :
    decode (wordOfCodes 020030010010012000000000) = .error .unusedField ∧
    decode (wordOfCodes 020030010020010000000001) = .error .unusedField ∧
    decode (wordOfCodes 020110010020014000001012) = .error .unusedField := by decide +kernel
theorem test_reserved_register_range :
    decode (wordOfCodes 021120010020010000000000) = .error .registerRange ∧
    decode (wordOfCodes 110130010020010000000000) = .error .registerRange ∧
    decode (wordOfCodes 310031040020010000000000) = .error .registerRange := by decide +kernel
theorem test_reserved_same_destination :
    decode (wordOfCodes 020110010020014000000011) = .error .sameDestination := by decide +kernel
theorem test_reserved_type_code :
    decode (wordOfCodes 010000000000002000000014) = .error .typeCode ∧
    decode (wordOfCodes 010000000000002000000023) = .error .typeCode ∧
    decode (wordOfCodes 010000000000002000000004) = .error .typeCode := by decide +kernel

theorem test_table_word_24_bits :
    decodeTableWord 24 0b010010010000000000000000 = some (.setvl 1 1) := by decide +kernel
theorem test_table_word_72_bits :
    decodeTableWord 72 0o020040010100010000000000 = some (.vaddP16 4 1 5) := by decide +kernel
theorem test_table_word_bad_code : decodeTableWord 72 0o050040010100010000000000 = none := by decide +kernel
/-! ## Small launch states and what to look at afterwards -/

/-- One thing that a launch gives a value. -/
inductive Put where
  | v (n : VNum) (t : EType) (l : List Int)
  | x (r : XNum) (a : Int)
  | m (k : MNum) (l : List Bool)
  | mem (a : Int) (len : Nat) (l : List Int)

/-- A value given at launch. -/
def put (s : State) : Put → State
  | .v n t l => s.putElems n t fun i => (l[i]?).map (strOf (ew t))
  | .x r a => s.putX r a
  | .m k l => s.putMask k fun i => l[i]?
  | .mem a len l => { s with mem := writePents s.mem a (l.flatMap fun b => (strOf len b).toList) }

/-- A launch state of 95_test_vectors.md: one word of program at 90000, valid addresses 0 to 99999, nothing else
but what is listed. -/
def launch (t : Option EType) (n : Option Nat) (l : List Put) : State :=
  l.foldl put { State.undefLaunch with vtype := t, vl := n, codeHi := 90024 }

/-- The step that runs a word from a launch state. -/
def run (s : State) (w : Nat) : Host.Outcome State Fault Refusal := step (s.loadWord (wordOfCodes w))

/-- The first elements of a vector register after a step. -/
def elems (o : Host.Outcome State Fault Refusal) (n : VNum) (t : EType) (k : Nat) : List (Option Int) :=
  match nextOf o with
  | some u => (List.range k).map fun i => (u.ve n t i).toOption
  | none => []

/-- A scalar register after a step. -/
def scalarOf (o : Host.Outcome State Fault Refusal) (r : XNum) : Option Int :=
  (nextOf o).bind fun u => (u.xval r).toOption

/-- The first bits of a mask register after a step. -/
def bits (o : Host.Outcome State Fault Refusal) (k : MNum) (n : Nat) : List Bool :=
  match nextOf o with
  | some u => (List.range n).filterMap fun i => u.mbit k i
  | none => []

/-- The integers of `len` pents at some addresses after a step. -/
def mems (o : Host.Outcome State Fault Refusal) (len : Nat) (l : List Int) : List (Option Int) :=
  match nextOf o with
  | some u => l.map fun a => ((u.memReadRaw a len).map ival).toOption
  | none => []

/-- pc after a step. -/
def pcOf (o : Host.Outcome State Fault Refusal) : Option Int := (nextOf o).map State.pc

/-! ## One step each: the vectors of 95_test_vectors.md, sections 2.1 to 2.8

The float vectors there use toy functions; here only that the instruction completes, and which element or fault
does not depend on the functions. -/

theorem test_setvl : let o := run (launch (some .p16) (none) [.x 2 40]) 010010020000000000000000;
    (nextOf o).bind State.vl = some 16 ∧ scalarOf o 1 = some (16) ∧ pcOf o = some 90024 := by decide +kernel
theorem test_setvl_2 : let o := run (launch (some .p28) (none) [.x 1 9]) 010010010000000000000000;
    (nextOf o).bind State.vl = some 9 ∧ pcOf o = some 90024 := by decide +kernel
theorem test_setvli : let o := run (launch (some .p14) (none) []) 010030000000001000001400;
    (nextOf o).bind State.vl = some 18 ∧ scalarOf o 3 = some (18) ∧ pcOf o = some 90024 := by decide +kernel
theorem test_setvli_2 : let o := run (launch (some .f55) (none) []) 010030000000001000000001;
    (nextOf o).bind State.vl = some 1 ∧ scalarOf o 3 = some (1) ∧ pcOf o = some 90024 := by decide +kernel
theorem test_vsettype : let o := run (launch (some .p16) (some 16) []) 010000000000002000000002;
    (nextOf o).bind State.vtype = some .p28 ∧ pcOf o = some 90024 := by decide +kernel
theorem test_vsettype_2 : let o := run (launch (none) (none) []) 010000000000002000000012;
    (nextOf o).bind State.vtype = some .f55 ∧ pcOf o = some 90024 := by decide +kernel
theorem test_vgetcfg : let o := run (launch (some .f28) (none) []) 010120000000003000000000;
    scalarOf o 7 = some (6) ∧ pcOf o = some 90024 := by decide +kernel
theorem test_vgetcfg_2 : faultOf (run (launch (none) (some 4) []) 010120000000003000000000) = some (.undefRead .vtype) := by decide +kernel
theorem test_vaddP16 : let o := run (launch (some .p16) (some 2) [.v 1 .p16 [76293945312, -5], .v 5 .p16 [1, 5]]) 020040010100010000000000;
    elems o 4 .p16 2 = [some (-76293945312), some 0] ∧ pcOf o = some 90024 := by decide +kernel
theorem test_vaddP16_2 : let o := run (launch (some .p16) (some 3) [.v 1 .p16 [1, -2, 3, 99]]) 020010010010010000000000;
    elems o 1 .p16 4 = [some 2, some (-4), some 6, some 99] ∧ pcOf o = some 90024 := by decide +kernel
theorem test_vaddP14 : let o := run (launch (some .p14) (some 2) [.v 1 .p14 [3051757812, 7], .v 2 .p14 [1, -9]]) 020030010020000000000000;
    elems o 3 .p14 2 = [some (-3051757812), some (-2)] ∧ pcOf o = some 90024 := by decide +kernel
theorem test_vaddP28 : let o := run (launch (some .p28) (some 2) [.v 1 .p28 [-18626451492309570312, 95367431640625], .v 2 .p28 [-1, 95367431640625]]) 020030010020020000000000;
    elems o 3 .p28 2 = [some 18626451492309570312, some 190734863281250] ∧ pcOf o = some 90024 := by decide +kernel
theorem test_vsubP16 : let o := run (launch (some .p16) (some 3) [.v 1 .p16 [-76293945312, 10, 0], .v 2 .p16 [1, 3, -4]]) 020030010020011000000000;
    elems o 3 .p16 3 = [some 76293945312, some 7, some 4] ∧ pcOf o = some 90024 := by decide +kernel
theorem test_vsubP28 : let o := run (launch (some .p28) (some 1) [.v 1 .p28 [3], .v 2 .p28 [5]]) 020030010020021000000000;
    elems o 3 .p28 1 = [some (-2)] ∧ pcOf o = some 90024 := by decide +kernel
theorem test_vnegP16 : let o := run (launch (some .p16) (some 3) [.v 1 .p16 [7, -76293945312, 0]]) 020030010000012000000000;
    elems o 3 .p16 3 = [some (-7), some 76293945312, some 0] ∧ pcOf o = some 90024 := by decide +kernel
theorem test_vmulP16 : let o := run (launch (some .p16) (some 3) [.v 2 .p16 [400000, -3, 76293945312], .v 3 .p16 [400000, 5, 2]]) 020010020030013000000000;
    elems o 1 .p16 3 = [some 7412109375, some (-15), some (-1)] ∧ pcOf o = some 90024 := by decide +kernel
theorem test_vwmulP16 : let o := run (launch (some .p16) (some 3) [.v 2 .p16 [400000, -400000, 76293945312], .v 3 .p16 [400000, 400000, 76293945312]]) 020110020030014000000012;
    elems o 6 .p16 3 = [some 7412109375, some (-7412109375), some (-38146972656)] ∧ elems o 7 .p16 3 = [some 1, some (-1), some 38146972656] ∧ pcOf o = some 90024 := by decide +kernel
theorem test_vdivP16 : let o := run (launch (some .p16) (some 4) [.v 1 .p16 [7, -7, 7, -7], .v 2 .p16 [2, 2, -2, -2]]) 030030010020010000000000;
    elems o 3 .p16 4 = [some 3, some (-3), some (-3), some 3] ∧ pcOf o = some 90024 := by decide +kernel
theorem test_vmodP16 : let o := run (launch (some .p16) (some 4) [.v 1 .p16 [7, -7, 7, -7], .v 2 .p16 [2, 2, -2, -2]]) 030030010020011000000000;
    elems o 3 .p16 4 = [some 1, some (-1), some 1, some (-1)] ∧ pcOf o = some 90024 := by decide +kernel
theorem test_vaddVxP16 : let o := run (launch (some .p16) (some 3) [.x 9 10, .v 1 .p16 [1, 2, 76293945312]]) 040030010140010000000000;
    elems o 3 .p16 3 = [some 11, some 12, some (-76293945303)] ∧ pcOf o = some 90024 := by decide +kernel
theorem test_vaddViP16 : let o := run (launch (some .p16) (some 3) [.v 1 .p16 [1, 2, 3]]) 040030010000011000000042;
    elems o 3 .p16 3 = [some (-2), some (-1), some 0] ∧ pcOf o = some 90024 := by decide +kernel
theorem test_vmulVxP16 : let o := run (launch (some .p16) (some 3) [.x 9 (-10), .v 1 .p16 [1, -2, 3]]) 040030010140012000000000;
    elems o 3 .p16 3 = [some (-10), some 20, some (-30)] ∧ pcOf o = some 90024 := by decide +kernel
theorem test_vmulViP16 : let o := run (launch (some .p16) (some 2) [.v 1 .p16 [2, -1]]) 040030010000013222222222;
    elems o 3 .p16 2 = [some 1953124, some (-976562)] ∧ pcOf o = some 90024 := by decide +kernel
theorem test_vredsumP16 : let o := run (launch (some .p16) (some 4) [.v 1 .p16 [1, -2, 3, 10, 1000]]) 100200010000010000000000;
    scalarOf o 10 = some (12) ∧ pcOf o = some 90024 := by decide +kernel
theorem test_vredsumP16_2 : let o := run (launch (some .p16) (some 2) [.v 1 .p16 [76293945312, 1]]) 100200010000010000000000;
    scalarOf o 10 = some (-76293945312) ∧ pcOf o = some 90024 := by decide +kernel
theorem test_vredmaxP16 : let o := run (launch (some .p16) (some 4) [.v 1 .p16 [1, -2, 3, 10]]) 100200010000011000000000;
    scalarOf o 10 = some (10) ∧ pcOf o = some 90024 := by decide +kernel
theorem test_vredmaxP16_2 : let o := run (launch (some .p16) (some 1) [.v 1 .p16 [-8]]) 100200010000011000000000;
    scalarOf o 10 = some (-8) ∧ pcOf o = some 90024 := by decide +kernel
theorem test_vredminP16 : let o := run (launch (some .p16) (some 4) [.v 1 .p16 [1, -2, 3, 10]]) 100200010000012000000000;
    scalarOf o 10 = some (-2) ∧ pcOf o = some 90024 := by decide +kernel
theorem test_vdotP16 : let o := run (launch (some .p16) (some 3) [.v 1 .p16 [1, 2, 3], .v 2 .p16 [4, 5, -6]]) 100200010020013000000000;
    scalarOf o 10 = some (-4) ∧ pcOf o = some 90024 := by decide +kernel
theorem test_vdotP16_2 : let o := run (launch (some .p16) (some 2) [.v 1 .p16 [400000, 1]]) 100200010010013000000000;
    scalarOf o 10 = some (7412109376) ∧ pcOf o = some 90024 := by decide +kernel
theorem test_vmseqP16 : let o := run (launch (some .p16) (some 4) [.v 1 .p16 [1, 5, -3, 0], .v 2 .p16 [1, 4, -3, 7]]) 110000010020010000000000;
    bits o 0 4 = [true, false, true, false] ∧ pcOf o = some 90024 := by decide +kernel
theorem test_vmsneP16 : let o := run (launch (some .p16) (some 4) [.v 1 .p16 [1, 5, -3, 0], .v 2 .p16 [1, 4, -3, 7]]) 110010010020011000000000;
    bits o 1 4 = [false, true, false, true] ∧ pcOf o = some 90024 := by decide +kernel
theorem test_vmsltP16 : let o := run (launch (some .p16) (some 4) [.v 1 .p16 [1, 5, -3, 0], .v 2 .p16 [1, 4, -3, 7]]) 110020010020012000000000;
    bits o 2 4 = [false, false, false, true] ∧ pcOf o = some 90024 := by decide +kernel
theorem test_vmsltP16_2 : let o := run (launch (some .p16) (some 2) [.v 1 .p16 [-1, 0], .v 2 .p16 [0, -1], .m 2 [true, true, true, true]]) 110020010020012000000000;
    bits o 2 4 = [true, false, true, true] ∧ pcOf o = some 90024 := by decide +kernel
theorem test_vmsleP16 : let o := run (launch (some .p16) (some 4) [.v 1 .p16 [1, 5, -3, 0], .v 2 .p16 [1, 4, -3, 7]]) 110030010020013000000000;
    bits o 3 4 = [true, false, true, true] ∧ pcOf o = some 90024 := by decide +kernel
theorem test_vmsgtP16 : let o := run (launch (some .p16) (some 4) [.v 1 .p16 [1, 5, -3, 0], .v 2 .p16 [1, 4, -3, 7]]) 110040010020014000000000;
    bits o 4 4 = [false, true, false, false] ∧ pcOf o = some 90024 := by decide +kernel
theorem test_vmsgeP16 : let o := run (launch (some .p16) (some 4) [.v 1 .p16 [1, 5, -3, 0], .v 2 .p16 [1, 4, -3, 7]]) 120120010020010000000000;
    bits o 7 4 = [true, true, true, false] ∧ pcOf o = some 90024 := by decide +kernel
theorem test_vreluP16 : let o := run (launch (some .p16) (some 4) [.v 1 .p16 [5, -3, 0, -76293945312]]) 220030010000010000000000;
    elems o 3 .p16 4 = [some 5, some 0, some 0, some 0] ∧ pcOf o = some 90024 := by decide +kernel
theorem test_vlreluP16 : let o := run (launch (some .p16) (some 3) [.v 1 .p16 [5, -3, 0]]) 220030010000012000000002;
    elems o 3 .p16 3 = [some 5, some (-6), some 0] ∧ pcOf o = some 90024 := by decide +kernel
theorem test_vlreluP16_2 : let o := run (launch (some .p16) (some 3) [.v 1 .p16 [5, -3, 0]]) 220030010000012000000004;
    elems o 3 .p16 3 = [some 5, some 3, some 0] ∧ pcOf o = some 90024 := by decide +kernel
theorem test_vquant5P16 : let o := run (launch (some .p16) (some 8) [.v 1 .p16 [25, 15, 14, -15, -4, 5, -5, 0]]) 240030010000010000000020;
    elems o 3 .p16 8 = [some 2, some 2, some 1, some (-2), some 0, some 1, some (-1), some 0] ∧ pcOf o = some 90024 := by decide +kernel
theorem test_vquant5P16_2 : let o := run (launch (some .p16) (some 5) [.v 1 .p16 [76293945312, -76293945312, 2, -1, 3]]) 240030010000010000000001;
    elems o 3 .p16 5 = [some 2, some (-2), some 2, some (-1), some 2] ∧ pcOf o = some 90024 := by decide +kernel
theorem test_vquant25P16 : let o := run (launch (some .p16) (some 8) [.v 1 .p16 [50, -50, 6, 2, -2, 48, 1, 0]]) 240030010000012000000014;
    elems o 3 .p16 8 = [some 12, some (-12), some 2, some 1, some (-1), some 12, some 0, some 0] ∧ pcOf o = some 90024 := by decide +kernel
theorem test_vgavgpoolP16 : let o := run (launch (some .p16) (some 4) [.v 1 .p16 [1, 2, 3, 5]]) 300200010000012000000000;
    scalarOf o 10 = some (2) ∧ pcOf o = some 90024 := by decide +kernel
theorem test_vgavgpoolP16_2 : let o := run (launch (some .p16) (some 2) [.v 1 .p16 [76293945312, 76293945312]]) 300200010000012000000000;
    scalarOf o 10 = some (76293945312) ∧ pcOf o = some 90024 := by decide +kernel
theorem test_vmatvecP16 : let o := run (launch (some .p16) (some 3) [.v 8 .p16 [1, 0, 0], .v 9 .p16 [0, 1, 0], .v 10 .p16 [1, 1, 1], .v 11 .p16 [2, -1, 3], .v 1 .p16 [4, 5, 6]]) 310220130010010000000000;
    elems o 12 .p16 4 = [some 4, some 5, some 15, some 21] ∧ pcOf o = some 90024 := by decide +kernel
theorem test_vmatvecP16_2 : let o := run (launch (some .p16) (some 2) [.v 8 .p16 [1, 2], .v 9 .p16 [3, 4], .v 10 .p16 [5, 6], .v 11 .p16 [7, 8]]) 310130130130010000000000;
    elems o 8 .p16 4 = [some 5, some 11, some 17, some 23] ∧ pcOf o = some 90024 := by decide +kernel
theorem test_vouterP16 : let o := run (launch (some .p16) (some 2) [.v 1 .p16 [1, 2, 3, -1], .v 2 .p16 [10, 20]]) 310130010020011000000000;
    elems o 8 .p16 2 = [some 10, some 20] ∧ elems o 9 .p16 2 = [some 20, some 40] ∧ elems o 10 .p16 2 = [some 30, some 60] ∧ elems o 11 .p16 2 = [some (-10), some (-20)] ∧ pcOf o = some 90024 := by decide +kernel
theorem test_vouterP16_2 : faultOf (run (launch (some .p16) (some 2) [.v 1 .p16 [1, 2, 3], .v 2 .p16 [10, 20]]) 310130010020011000000000) = some (.undefRead (.v 1 48)) := by decide +kernel
theorem test_vldP16 : let o := run (launch (some .p16) (some 2) [.x 5 1000, .mem 1000 16 [7, -1]]) 320010100000010000000000;
    elems o 1 .p16 2 = [some 7, some (-1)] ∧ pcOf o = some 90024 := by decide +kernel
theorem test_vldP16_2 : let o := run (launch (some .p16) (some 2) [.x 5 1001, .mem 1000 16 [7, -1, 0]]) 320010100000010000000000;
    elems o 1 .p16 2 = [some (-30517578124), some 0] ∧ pcOf o = some 90024 := by decide +kernel
theorem test_vldP28 : let o := run (launch (some .p28) (some 2) [.x 5 1000, .mem 1000 28 [95367431640625, -3]]) 320010100000020000000000;
    elems o 1 .p28 2 = [some 95367431640625, some (-3)] ∧ pcOf o = some 90024 := by decide +kernel
theorem test_vldF16 : let o := run (launch (some .p16) (some 2) [.x 5 1000, .mem 1000 16 [7, -1]]) 320010100000011000000000;
    elems o 1 .p16 2 = [some 7, some (-1)] ∧ pcOf o = some 90024 := by decide +kernel
theorem test_vstP16 : let o := run (launch (some .p16) (some 2) [.x 6 2000, .v 1 .p16 [7, -1, 5]]) 320010110000012000000000;
    mems o 16 [2000, 2016, 2032] = [some 7, some (-1), none] ∧ pcOf o = some 90024 := by decide +kernel
theorem test_vstP16_2 : faultOf (run (launch (some .p16) (some 2) [.x 6 89990, .v 1 .p16 [1, 2]]) 320010110000012000000000) = some (.codeWrite (90000)) := by decide +kernel
theorem test_vstP28 : let o := run (launch (some .p28) (some 1) [.x 6 2000, .v 1 .p28 [18626451492309570312]]) 320010110000022000000000;
    mems o 28 [2000] = [some 18626451492309570312] ∧ mems o 14 [2000, 2014] = [some 3051757812, some 3051757812] ∧ pcOf o = some 90024 := by decide +kernel
theorem test_vldsP16 : let o := run (launch (some .p16) (some 3) [.x 5 1000, .x 7 32, .mem 1000 16 [1, 2, 3, 4, 5]]) 330010100120010000000000;
    elems o 1 .p16 3 = [some 1, some 3, some 5] ∧ pcOf o = some 90024 := by decide +kernel
theorem test_vstsP16 : let o := run (launch (some .p16) (some 3) [.x 6 2000, .x 7 48, .v 1 .p16 [1, 2, 3]]) 330010110120011000000000;
    mems o 16 [2000] = [some 1] ∧ mems o 16 [2048] = [some 2] ∧ mems o 16 [2096] = [some 3] ∧ pcOf o = some 90024 := by decide +kernel
theorem test_vstsP16_2 : let o := run (launch (some .p16) (some 3) [.x 6 2000, .x 7 0, .v 1 .p16 [1, 2, 3]]) 330010110120011000000000;
    mems o 16 [2000] = [some 3] ∧ pcOf o = some 90024 := by decide +kernel
theorem test_vldiP16 : let o := run (launch (some .p16) (some 3) [.x 5 1032, .v 2 .p16 [32, 0, -16], .mem 1000 16 [1, 2, 3, 4, 5]]) 330010100020012000000000;
    elems o 1 .p16 3 = [some 5, some 3, some 2] ∧ pcOf o = some 90024 := by decide +kernel
theorem test_vldiP16_2 : let o := run (launch (some .p16) (some 2) [.x 5 1000, .v 2 .p16 [16, 16], .mem 1000 16 [1, 2]]) 330020100020012000000000;
    elems o 2 .p16 2 = [some 2, some 2] ∧ pcOf o = some 90024 := by decide +kernel
theorem test_vstiP16 : let o := run (launch (some .p16) (some 3) [.x 6 2000, .v 1 .p16 [5, 9, 4], .v 2 .p16 [0, 0, 32]]) 330010110020013000000000;
    mems o 16 [2000, 2016, 2032] = [some 9, none, some 4] ∧ pcOf o = some 90024 := by decide +kernel
theorem test_vstiP16_2 : let o := run (launch (some .p16) (some 2) [.x 6 2000, .v 1 .p16 [1, -1], .v 2 .p16 [0, 8]]) 330010110020013000000000;
    mems o 8 [2000, 2008, 2016] = [some 1, some (-1), some 0] ∧ pcOf o = some 90024 := by decide +kernel
theorem test_vlseg2P16 : let o := run (launch (some .p16) (some 4) [.x 5 1000, .mem 1000 16 [1, 2, 3, 4]]) 340010100000010000000000;
    elems o 1 .p16 4 = [some 1, some 2, some 3, some 4] ∧ pcOf o = some 90024 := by decide +kernel
theorem test_vlseg2P16_2 : faultOf (run (launch (some .p16) (some 3) [.x 5 1000, .mem 1000 16 [1, 2, 3, 4]]) 340010100000010000000000) = some (.segVL 3 2) := by decide +kernel
theorem test_vlseg3P16 : let o := run (launch (some .p16) (some 6) [.x 5 1000, .mem 1000 16 [1, 2, 3, 4, 5, 6]]) 340010100000011000000000;
    elems o 1 .p16 6 = [some 1, some 2, some 3, some 4, some 5, some 6] ∧ pcOf o = some 90024 := by decide +kernel
theorem test_vlseg4P16 : let o := run (launch (some .p16) (some 4) [.x 5 1000, .mem 1000 16 [1, 2, 3, 4]]) 340010100000012000000000;
    elems o 1 .p16 4 = [some 1, some 2, some 3, some 4] ∧ pcOf o = some 90024 := by decide +kernel
theorem test_vsseg2P16 : let o := run (launch (some .p16) (some 4) [.x 6 2000, .v 1 .p16 [1, 2, 3, 4]]) 340010110000013000000000;
    mems o 16 [2000, 2016, 2032, 2048] = [some 1, some 2, some 3, some 4] ∧ pcOf o = some 90024 := by decide +kernel
theorem test_vaddP16M : let o := run (launch (some .p16) (some 4) [.v 1 .p16 [1, 2, 3, 4], .v 2 .p16 [10, 20, 30, 40], .v 3 .p16 [-1, -1, -1, -1], .m 0 [true, false, true, false]]) 020030010020110000000000;
    elems o 3 .p16 4 = [some 11, some (-1), some 33, some (-1)] ∧ pcOf o = some 90024 := by decide +kernel
theorem test_vaddP16M_2 : pcOf (run (launch (some .p16) (some 2) [.v 1 .p16 [1, 2], .v 2 .p16 [10, 20], .v 3 .p16 [5, 5], .m 0 [false, false]]) 020030010020110000000000) = some 90024 := by decide +kernel
theorem test_vldP16M : let o := run (launch (some .p16) (some 3) [.x 5 1000, .v 1 .p16 [0, -9, 0], .m 2 [true, false, true], .mem 1000 16 [5], .mem 1032 16 [7]]) 320010100000310000000000;
    elems o 1 .p16 3 = [some 5, some (-9), some 7] ∧ pcOf o = some 90024 := by decide +kernel
theorem test_vldP16M_2 : let o := run (launch (some .p16) (some 2) [.x 5 99984, .m 2 [true, false], .mem 99984 16 [5]]) 320010100000310000000000;
    elems o 1 .p16 1 = [some 5] ∧ pcOf o = some 90024 := by decide +kernel
theorem test_vstP16M : let o := run (launch (some .p16) (some 3) [.x 6 2000, .v 1 .p16 [5, 6, 7], .m 2 [true, false, true], .mem 2016 16 [-8]]) 320010110000312000000000;
    mems o 16 [2000, 2016, 2032] = [some 5, some (-8), some 7] ∧ pcOf o = some 90024 := by decide +kernel
theorem test_vstP16M_2 : faultOf (run (launch (some .p16) (some 2) [.x 6 89984, .v 1 .p16 [5, 6], .m 2 [true, true]]) 320010110000312000000000) = some (.codeWrite (90000)) := by decide +kernel
theorem test_vmpopc : let o := run (launch (some .p16) (some 4) [.m 2 [true, false, true, true, true, true]]) 400200020000000000000000;
    scalarOf o 10 = some (3) ∧ pcOf o = some 90024 := by decide +kernel
theorem test_vmffs : let o := run (launch (some .p16) (some 4) [.m 2 [false, false, true, true]]) 400200020000001000000000;
    scalarOf o 10 = some (2) ∧ pcOf o = some 90024 := by decide +kernel
theorem test_vmffs_2 : let o := run (launch (some .p16) (some 4) [.m 2 [false, false, false, false, true]]) 400200020000001000000000;
    scalarOf o 10 = some (-1) ∧ pcOf o = some 90024 := by decide +kernel
theorem test_vmand : let o := run (launch (some .p16) (some 4) [.m 1 [true, true, false, false], .m 2 [true, false, true, false]]) 400030010020002000000000;
    bits o 3 4 = [true, false, false, false] ∧ pcOf o = some 90024 := by decide +kernel
theorem test_vmor : let o := run (launch (some .p16) (some 4) [.m 1 [true, true, false, false], .m 2 [true, false, true, false]]) 400030010020003000000000;
    bits o 3 4 = [true, true, true, false] ∧ pcOf o = some 90024 := by decide +kernel
theorem test_vmxor : let o := run (launch (some .p16) (some 4) [.m 1 [true, true, false, false], .m 2 [true, false, true, false]]) 400030010020004000000000;
    bits o 3 4 = [false, true, true, false] ∧ pcOf o = some 90024 := by decide +kernel
theorem test_vmxor_2 : faultOf (run (launch (some .p16) (some 2) []) 400030010010004000000000) = some (.undefRead (.vm 1 0)) := by decide +kernel
theorem test_vmnot : let o := run (launch (some .p16) (some 3) [.m 1 [true, true, false, false]]) 410010010000000000000000;
    bits o 1 4 = [false, false, true, false] ∧ pcOf o = some 90024 := by decide +kernel
theorem test_vmnot_2 : let o := run (launch (some .p14) (some 18) [.m 1 [true, false, true, false, true, false, true, false, true, false, true, false, true, false, true, false, true, false]]) 410030010000000000000000;
    bits o 3 18 = [false, true, false, true, false, true, false, true, false, true, false, true, false, true, false, true, false, true] ∧ pcOf o = some 90024 := by decide +kernel
theorem test_vpermP16 : let o := run (launch (some .p16) (some 4) [.v 1 .p16 [10, 20, 30, 40], .v 2 .p16 [3, 0, 0, 2]]) 420030010020010000000000;
    elems o 3 .p16 4 = [some 40, some 10, some 10, some 30] ∧ pcOf o = some 90024 := by decide +kernel
theorem test_vpermP16_2 : let o := run (launch (some .p16) (some 4) [.v 1 .p16 [1, 2, 3, 0]]) 420010010010010000000000;
    elems o 1 .p16 4 = [some 2, some 3, some 0, some 1] ∧ pcOf o = some 90024 := by decide +kernel
theorem test_vrevP16 : let o := run (launch (some .p16) (some 3) [.v 2 .p16 [10, 20, 30, 40]]) 420020020000011000000000;
    elems o 2 .p16 4 = [some 30, some 20, some 10, some 40] ∧ pcOf o = some 90024 := by decide +kernel
theorem test_vrotP16 : let o := run (launch (some .p16) (some 4) [.v 1 .p16 [10, 20, 30, 40]]) 420030010000012000000001;
    elems o 3 .p16 4 = [some 40, some 10, some 20, some 30] ∧ pcOf o = some 90024 := by decide +kernel
theorem test_vrotP16_2 : let o := run (launch (some .p16) (some 4) [.v 1 .p16 [10, 20, 30, 40]]) 420030010000012000000011;
    elems o 3 .p16 4 = [some 30, some 40, some 10, some 20] ∧ pcOf o = some 90024 := by decide +kernel
theorem test_vzipP16 : let o := run (launch (some .p16) (some 4) [.v 1 .p16 [1, 2, 3, 4], .v 2 .p16 [10, 20, 30, 40]]) 420100010020013000000011;
    elems o 5 .p16 4 = [some 1, some 10, some 2, some 20] ∧ elems o 6 .p16 4 = [some 3, some 30, some 4, some 40] ∧ pcOf o = some 90024 := by decide +kernel
theorem test_vzipP16_2 : let o := run (launch (some .p16) (some 3) [.v 1 .p16 [1, 2, 3], .v 2 .p16 [10, 20, 30]]) 420100010020013000000011;
    elems o 5 .p16 3 = [some 1, some 10, some 2] ∧ elems o 6 .p16 3 = [some 20, some 3, some 30] ∧ pcOf o = some 90024 := by decide +kernel
theorem test_vunzipP16 : let o := run (launch (some .p16) (some 4) [.v 1 .p16 [1, 10, 2, 20], .v 2 .p16 [3, 30, 4, 40]]) 420100010020014000000011;
    elems o 5 .p16 4 = [some 1, some 2, some 3, some 4] ∧ elems o 6 .p16 4 = [some 10, some 20, some 30, some 40] ∧ pcOf o = some 90024 := by decide +kernel
theorem test_vunzipP16_2 : let o := run (launch (some .p16) (some 3) [.v 1 .p16 [1, 10, 2], .v 2 .p16 [20, 3, 30]]) 420100010020014000000011;
    elems o 5 .p16 3 = [some 1, some 2, some 3] ∧ elems o 6 .p16 3 = [some 10, some 20, some 30] ∧ pcOf o = some 90024 := by decide +kernel
theorem test_vbroadcastP16 : let o := run (launch (some .p16) (some 3) [.x 9 (-7)]) 430030140000010000000000;
    elems o 3 .p16 3 = [some (-7), some (-7), some (-7)] ∧ pcOf o = some 90024 := by decide +kernel
theorem test_vextractP16 : let o := run (launch (some .p16) (some 4) [.v 1 .p16 [10, 20, 30, 40]]) 430200010000011000000002;
    scalarOf o 10 = some (30) ∧ pcOf o = some 90024 := by decide +kernel
theorem test_vextractP16_2 : faultOf (run (launch (some .p16) (some 2) [.v 1 .p16 [10, 20, 30, 40]]) 430200010000011000000002) = some (.indexRange (2) 2) := by decide +kernel
theorem test_vinsertP16 : let o := run (launch (some .p16) (some 4) [.x 9 99, .v 3 .p16 [1, 2, 3, 4]]) 430030140000012000000002;
    elems o 3 .p16 4 = [some 1, some 2, some 99, some 4] ∧ pcOf o = some 90024 := by decide +kernel
theorem test_vinsertP16_2 : let o := run (launch (some .p16) (some 1) [.x 9 99]) 430030140000012000000000;
    elems o 3 .p16 1 = [some 99] ∧ pcOf o = some 90024 := by decide +kernel

/-- Two active elements in V1, V2, V3 under P16 (and F16), bits in VM1, a scalar in x10. -/
def floats : State := launch (some .f16) (some 2)
  [.v 1 .p16 [10, -4], .v 2 .p16 [3, 9], .v 3 .p16 [1, 2], .x 10 7]

/-- A word that completes from `floats` and leaves pc at the end of the program. -/
def completes (w : Nat) : Bool := decide (pcOf (run floats w) = some 90024)

theorem test_float_binary : completes 130030010020010000000000 ∧ completes 130030010020011000000000 ∧
    completes 130030010020012000000000 ∧ completes 130030010020013000000000 ∧ completes 200030010020013000000000 ∧
    completes 200030010020014000000000 := by decide +kernel
theorem test_float_binary_28 : let s := launch (some .f28) (some 2) [.v 1 .f28 [10, -4], .v 2 .f28 [3, 9]];
    pcOf (run s 130030010020020000000000) = some 90024 ∧ pcOf (run s 130030010020021000000000) = some 90024 ∧
    pcOf (run s 130030010020022000000000) = some 90024 ∧ pcOf (run s 130030010020023000000000) = some 90024 := by decide +kernel
theorem test_float_ternary : completes 140040010020010000000003 ∧ completes 140040010020011000000003 ∧
    completes 140030010020012000000003 := by decide +kernel
theorem test_float_unary : completes 200030010000010000000000 ∧ completes 200030010000011000000000 ∧
    completes 200030010000012000000000 ∧ completes 210030010000010000000000 ∧ completes 210030010000011000000000 := by
  decide +kernel
theorem test_float_neural : completes 220030010000011000000000 ∧ completes 220030010000013000000000 ∧
    completes 220030010000014000000000 ∧ completes 230030010000010000000000 ∧ completes 230200030000011000000000 ∧
    completes 130030030200014000000000 ∧ completes 240030010000011000000020 := by decide +kernel
theorem test_open_results : completes 300030010000010000000000 ∧ completes 300030010000011000000000 ∧
    completes 310030010000012000023000 ∧ completes 240030010000010000000000 := by decide +kernel
theorem test_vfaddF28_length : faultOf (run (launch (some .p16) (some 16) [.v 1 .f28 [1], .v 2 .f28 [1]])
    130030010020020000000000) = some (.vlTooLarge 16 9) := by decide +kernel
theorem test_vdivP16_zero :
    let o := run (launch (some .p16) (some 2) [.v 1 .p16 [7, 6], .v 2 .p16 [0, 3]]) 030030010020010000000000;
    (elems o 3 .p16 2)[1]? = some (some 2) ∧ pcOf o = some 90024 := by decide +kernel
theorem test_fetch_word_runs : let o := step (State.reset.withFetchWord 24 0b010010000000001000000001);
    scalarOf o 1 = some 1 ∧ (nextOf o).bind State.vl = some 1 ∧ pcOf o = some 90024 := by decide +kernel
theorem test_end_of_program : refusalOf (step State.reset) = some .endOfProgram := by decide +kernel
theorem test_illegal_launch : refusalOf (step { launch none none [] with pc := 90001 }) =
    some (.illegalLaunch 90001) := by decide +kernel
theorem test_reserved_word_faults : faultOf (run (launch none none []) 440000000000000000000000) =
    some (.illegalInstruction (wordOfCodes 440000000000000000000000)) := by decide +kernel

/-! ## Numbers (section 4) -/

theorem test_wrap : wrap 2 13 = -12 ∧ wrap 2 (-13) = 12 ∧ wrap 3 63 = -62 ∧ wrap 16 76293945313 = -76293945312 ∧
    wrap 28 18626451492309570313 = -18626451492309570312 := by decide +kernel
theorem test_division : idiv (-7) 2 = -3 ∧ imod (-7) 2 = -1 ∧ idiv (-26) 10 = -2 ∧ imod (-26) 10 = -6 := by decide +kernel
theorem test_rounding : rdiv 5 10 = 1 ∧ rdiv (-5) 10 = -1 ∧ rdiv 14 10 = 1 ∧ rdiv (-7) (-2) = 4 ∧ rdiv 49 4 = 12 := by
  decide +kernel

/-! ## Witnesses: concrete states that meet the hypotheses of the statements -/

/-- The integers of a list, 0 beyond. -/
def val (l : List Int) (i : Nat) : Int := l.getD i 0

/-- The strings of the integers of a list. -/
def raw (t : EType) (l : List Int) (i : Nat) : Pat (ew t) := strOf (ew t) (val l i)

/-- `HoldsInts` for the values of a list, by evaluation. -/
theorem holdsInts_of {s : State} {t : EType} {r : VNum} {l : List Int} (n : Nat)
    (h : (List.range n).all (fun i => decide ((s.ve r t i).toOption = some (val l i))) = true) :
    HoldsInts s t r n (val l) := by
  intro i hi
  have := List.all_eq_true.mp h i (List.mem_range.mpr hi)
  rw [decide_eq_true_eq] at this
  cases hv : s.ve r t i with
  | error e => rw [hv] at this; cases this
  | ok a => rw [hv] at this; cases this; rfl

/-- `HoldsRaw` for the strings of a list, by evaluation. -/
theorem holdsRaw_of {s : State} {t : EType} {r : VNum} {l : List Int} (n : Nat)
    (h : (List.range n).all (fun i => decide ((s.vraw r t i).toOption = some (raw t l i))) = true) :
    HoldsRaw s t r n (raw t l) := by
  intro i hi
  have := List.all_eq_true.mp h i (List.mem_range.mpr hi)
  rw [decide_eq_true_eq] at this
  cases hv : s.vraw r t i with
  | error e => rw [hv] at this; cases this
  | ok a => rw [hv] at this; cases this; rfl

/-- `HoldsBits` for the bits of a list, by evaluation. -/
theorem holdsBits_of {s : State} {k : MNum} {l : List Bool} (n : Nat)
    (h : (List.range n).all (fun i => decide (s.mbit k i = some (l.getD i false))) = true) :
    HoldsBits s k n (fun i => l.getD i false) := by
  intro i hi
  have := List.all_eq_true.mp h i (List.mem_range.mpr hi)
  rwa [decide_eq_true_eq] at this

/-- `Spells` from a read that answers. -/
theorem spells_of {s : State} {len : Nat} {a : Int} {e : Pat len}
    (h : ((s.memReadRaw a len).toOption = some e)) : Spells s len a e := by
  rw [← memReadRaw_spells]
  cases hv : s.memReadRaw a len with
  | error e => rw [hv] at h; cases h
  | ok p => rw [hv] at h; cases h; rfl

/-- `Storable` from a range check. -/
theorem storable_of {s : State} {len : Nat} {a : Int}
    (h : s.memLo ≤ a ∧ a + len ≤ s.memHi ∧ (a + len ≤ s.codeLo ∨ s.codeHi ≤ a)) : Storable s len a := by
  intro b hb
  obtain ⟨h1, h2⟩ := hb
  omega

/-- VL = 2 and two elements everywhere: V1 (7, 0), V2 (0, -3) under P16, V5 (1, 0) as indices, x5 = 1000, x7 = 32,
x9 = 10, VM1 (1, 0), VM2 (0, 0). -/
def w16 : State := launch (some .p16) (some 2)
  [.v 1 .p16 [7, 0, 5, -1], .v 2 .p16 [0, -3], .v 5 .p16 [1, 0], .v 6 .p16 [0, 2], .x 2 0, .x 3 1, .x 5 1000, .x 7 32,
    .x 9 10, .m 1 [true, false], .m 2 [false, false], .mem 1000 16 [4, 5, 6]]

/-- The same lengths under P28. -/
def w28 : State := launch (some .p28) (some 2) [.v 1 .p28 [7, 0], .v 2 .p28 [0, -3], .x 5 1000, .mem 1000 28 [4, 5]]

/-- The same lengths under P14. -/
def w14 : State := launch (some .p14) (some 2) [.v 1 .p14 [7, 0], .v 2 .p14 [0, -3]]

theorem xval_of {s : State} {r : XNum} {a : Int} (h : (s.xval r).toOption = some a) : s.xval r = .ok a := by
  cases hv : s.xval r with
  | error e => rw [hv] at h; cases h
  | ok p => rw [hv] at h; cases h; rfl

theorem ve_of {s : State} {n : VNum} {t : EType} {i : Nat} {a : Int} (h : (s.ve n t i).toOption = some a) :
    s.ve n t i = .ok a := by
  cases hv : s.ve n t i with
  | error e => rw [hv] at h; cases h
  | ok p => rw [hv] at h; cases h; rfl

theorem w16_active : Active w16 .p16 2 := ⟨by decide +kernel, by decide⟩
theorem w16_active_f16 : Active w16 .f16 2 := ⟨by decide +kernel, by decide⟩
theorem w28_active : Active w28 .p28 2 := ⟨by decide +kernel, by decide⟩
theorem w28_active_f28 : Active w28 .f28 2 := ⟨by decide +kernel, by decide⟩
theorem w14_active : Active w14 .p14 2 := ⟨by decide +kernel, by decide⟩
theorem w16_v1 : HoldsInts w16 .p16 1 2 (val [7, 0]) := holdsInts_of 2 (by decide +kernel)
theorem w16_v2 : HoldsInts w16 .p16 2 2 (val [0, -3]) := holdsInts_of 2 (by decide +kernel)
theorem w28_v1 : HoldsInts w28 .p28 1 2 (val [7, 0]) := holdsInts_of 2 (by decide +kernel)
theorem w28_v2 : HoldsInts w28 .p28 2 2 (val [0, -3]) := holdsInts_of 2 (by decide +kernel)
theorem w14_v1 : HoldsInts w14 .p14 1 2 (val [7, 0]) := holdsInts_of 2 (by decide +kernel)
theorem w14_v2 : HoldsInts w14 .p14 2 2 (val [0, -3]) := holdsInts_of 2 (by decide +kernel)
theorem w16_raw1 : HoldsRaw w16 .p16 1 2 (raw .p16 [7, 0]) := holdsRaw_of 2 (by decide +kernel)
theorem w16_raw2 : HoldsRaw w16 .p16 2 2 (raw .p16 [0, -3]) := holdsRaw_of 2 (by decide +kernel)
theorem w16_float1 : HoldsRaw w16 .f16 1 2 (raw .f16 [7, 0]) := holdsRaw_of 2 (by decide +kernel)
theorem w16_float2 : HoldsRaw w16 .f16 2 2 (raw .f16 [0, -3]) := holdsRaw_of 2 (by decide +kernel)
theorem w28_float1 : HoldsRaw w28 .f28 1 2 (raw .f28 [7, 0]) := holdsRaw_of 2 (by decide +kernel)
theorem w28_float2 : HoldsRaw w28 .f28 2 2 (raw .f28 [0, -3]) := holdsRaw_of 2 (by decide +kernel)
theorem w28_raw1 : HoldsRaw w28 .p28 1 2 (raw .p28 [7, 0]) := holdsRaw_of 2 (by decide +kernel)
theorem w16_vm1 : HoldsBits w16 1 2 (fun i => [true, false].getD i false) := holdsBits_of 2 (by decide +kernel)
theorem w16_vm2 : HoldsBits w16 2 2 (fun i => [false, false].getD i false) := holdsBits_of 2 (by decide +kernel)
theorem w16_x5 : w16.xval 5 = .ok 1000 := xval_of (by decide +kernel)
theorem w28_x5 : w28.xval 5 = .ok 1000 := xval_of (by decide +kernel)
theorem w16_x7 : w16.xval 7 = .ok 32 := xval_of (by decide +kernel)
theorem w16_x9 : w16.xval 9 = .ok 10 := xval_of (by decide +kernel)

/-- The three P16 values at 1000, 1016 and 1032. -/
theorem w16_memory (i : Nat) (h : i < 3) : Spells w16 16 (1000 + i * 16) (raw .p16 [4, 5, 6] i) := by
  interval_cases i <;> exact spells_of (by decide +kernel)

/-- The two P28 values at 1000 and 1028. -/
theorem w28_memory (i : Nat) (h : i < 2) : Spells w28 28 (1000 + i * 28) (raw .p28 [4, 5] i) := by
  interval_cases i <;> exact spells_of (by decide +kernel)

/-- Everything below the program may be stored to. -/
theorem w16_storable (len : Nat) (a : Int) (h : 0 ≤ a ∧ a + len ≤ 90000) : Storable w16 len a :=
  storable_of ⟨h.1, show a + len ≤ 100000 by omega, .inl h.2⟩

theorem witness_SetLengthResults : w16.vtype = some .p16 ∧ (w16.xval 3 = .ok 1 ∧ (1 : Int) ≤ 1) ∧
    (w16.xval 2 = .ok 0 ∧ (0 : Int) < 1) :=
  ⟨by decide +kernel, ⟨xval_of (by decide +kernel), by decide⟩, xval_of (by decide +kernel), by decide⟩
theorem witness_TypeSetAndRead : w28.vtype = some .p28 := by decide +kernel
theorem witness_UndefinedTypeFaults : (launch none (some 2) []).vtype = none := by decide +kernel
theorem witness_IntegerAddSubtractMultiply :
    (Active w16 .p16 2 ∧ HoldsInts w16 .p16 1 2 (val [7, 0]) ∧ HoldsInts w16 .p16 2 2 (val [0, -3])) ∧
    (Active w28 .p28 2 ∧ HoldsInts w28 .p28 1 2 (val [7, 0]) ∧ HoldsInts w28 .p28 2 2 (val [0, -3])) ∧
    (Active w14 .p14 2 ∧ HoldsInts w14 .p14 1 2 (val [7, 0]) ∧ HoldsInts w14 .p14 2 2 (val [0, -3])) :=
  ⟨⟨w16_active, w16_v1, w16_v2⟩, ⟨w28_active, w28_v1, w28_v2⟩, w14_active, w14_v1, w14_v2⟩
theorem witness_IntegerNegateReluImmediate : Active w16 .p16 2 ∧ HoldsInts w16 .p16 1 2 (val [7, 0]) :=
  ⟨w16_active, w16_v1⟩
theorem witness_IntegerWithScalar : Active w16 .p16 2 ∧ HoldsInts w16 .p16 1 2 (val [7, 0]) ∧ w16.xval 9 = .ok 10 :=
  ⟨w16_active, w16_v1, w16_x9⟩
theorem witness_WideningMultiplyIsExact : (6 : VNum) ≠ 7 ∧ Active w16 .p16 2 ∧ HoldsInts w16 .p16 1 2 (val [7, 0]) ∧
    HoldsInts w16 .p16 2 2 (val [0, -3]) := ⟨by decide, w16_active, w16_v1, w16_v2⟩
/-- Element 0 divides by 0, element 1 by -3. -/
theorem witness_DivisionAndRemainder : Active w16 .p16 2 ∧ HoldsInts w16 .p16 1 2 (val [7, 0]) ∧
    HoldsInts w16 .p16 2 2 (val [0, -3]) ∧ val [0, -3] 0 = 0 ∧ val [0, -3] 1 ≠ 0 :=
  ⟨w16_active, w16_v1, w16_v2, by decide, by decide⟩
theorem witness_ReductionsToScalar : Active w16 .p16 2 ∧ 1 ≤ 2 ∧ HoldsInts w16 .p16 1 2 (val [7, 0]) ∧
    HoldsInts w16 .p16 2 2 (val [0, -3]) := ⟨w16_active, by decide, w16_v1, w16_v2⟩
theorem witness_ComparisonsSetMaskBits : Active w16 .p16 2 ∧ HoldsInts w16 .p16 1 2 (val [7, 0]) ∧
    HoldsInts w16 .p16 2 2 (val [0, -3]) := ⟨w16_active, w16_v1, w16_v2⟩
theorem witness_FloatElementwise :
    (Active w16 .f16 2 ∧ HoldsRaw w16 .f16 1 2 (raw .f16 [7, 0]) ∧ HoldsRaw w16 .f16 2 2 (raw .f16 [0, -3])) ∧
    (Active w28 .f28 2 ∧ HoldsRaw w28 .f28 1 2 (raw .f28 [7, 0]) ∧ HoldsRaw w28 .f28 2 2 (raw .f28 [0, -3])) :=
  ⟨⟨w16_active_f16, w16_float1, w16_float2⟩, w28_active_f28, w28_float1, w28_float2⟩
theorem witness_FloatWithScalar : Active w16 .f16 2 ∧ HoldsRaw w16 .f16 1 2 (raw .f16 [7, 0]) ∧
    (w16.xraw 9).toOption = some (strOf 16 10) := ⟨w16_active_f16, w16_float1, by decide +kernel⟩
theorem witness_SoftmaxSequence : Active w16 .f16 2 ∧ HoldsRaw w16 .f16 1 2 (raw .f16 [7, 0]) :=
  ⟨w16_active_f16, w16_float1⟩
/-- A scale that is not 0; a scale of 0 meets the other clause. -/
theorem witness_Quantisation : Active w16 .p16 2 ∧ HoldsInts w16 .p16 1 2 (val [7, 0]) ∧ (1 : Int) ≠ 0 :=
  ⟨w16_active, w16_v1, by decide⟩
theorem witness_PoolingResults : Active w16 .p16 2 ∧ HoldsInts w16 .p16 1 2 (val [7, 0]) := ⟨w16_active, w16_v1⟩

/-- A group of four rows at V8 and a vector in V1. -/
def wGroup : State := launch (some .p16) (some 2)
  [.v 8 .p16 [1, 2], .v 9 .p16 [3, 4], .v 10 .p16 [5, 6], .v 11 .p16 [7, 8], .v 1 .p16 [2, -1, 4, 9]]

theorem witness_MatrixVectorProduct : Active wGroup .p16 2 ∧
    (∀ r : Fin 4, HoldsInts wGroup .p16 (groupReg 8 r) 2 (val [2 * r + 1, 2 * r + 2])) ∧
    HoldsInts wGroup .p16 1 2 (val [2, -1]) :=
  ⟨⟨by decide +kernel, by decide⟩, fun r => by fin_cases r <;> exact holdsInts_of 2 (by decide +kernel),
    holdsInts_of 2 (by decide +kernel)⟩
theorem witness_OuterProduct : Active wGroup .p16 2 ∧
    (∀ i : Fin 4, wGroup.ve 1 .p16 i = .ok (val [2, -1, 4, 9] i)) ∧ HoldsInts wGroup .p16 8 2 (val [1, 2]) :=
  ⟨⟨by decide +kernel, by decide⟩, fun i => by fin_cases i <;> exact ve_of (by decide +kernel),
    holdsInts_of 2 (by decide +kernel)⟩
theorem witness_CrossbarQuery : Active w16 .p16 2 ∧ HoldsInts w16 .p16 1 2 (val [7, 0]) := ⟨w16_active, w16_v1⟩

/-- `w16` with three active elements, for a structure of three fields. -/
def w3 : State := { w16 with vl := some 3 }

/-- `w16` with four active elements and four values in memory, for structures of two and four fields. -/
def w4 : State := launch (some .p16) (some 4) [.x 5 1000, .mem 1000 16 [4, 5, 6, 7]]

theorem witness_UnitStrideAndSegmentLoads :
    (Active w16 .p16 2 ∧ w16.xval 5 = .ok 1000 ∧ 2 % 1 = 0 ∧
      ∀ i : Nat, i < 2 → Spells w16 16 (1000 + i * 16) (raw .p16 [4, 5, 6] i)) ∧
    (Active w28 .p28 2 ∧ w28.xval 5 = .ok 1000 ∧ 2 % 1 = 0 ∧
      ∀ i : Nat, i < 2 → Spells w28 28 (1000 + i * 28) (raw .p28 [4, 5] i)) ∧
    (Active w3 .p16 3 ∧ w3.xval 5 = .ok 1000 ∧ 3 % 3 = 0 ∧
      ∀ i : Nat, i < 3 → Spells w3 16 (1000 + i * 16) (raw .p16 [4, 5, 6] i)) ∧
    (Active w4 .p16 4 ∧ w4.xval 5 = .ok 1000 ∧ 4 % 2 = 0 ∧ 4 % 4 = 0 ∧
      ∀ i : Nat, i < 4 → Spells w4 16 (1000 + i * 16) (raw .p16 [4, 5, 6, 7] i)) :=
  ⟨⟨w16_active, w16_x5, rfl, fun i h => w16_memory i (by omega)⟩,
    ⟨w28_active, w28_x5, rfl, w28_memory⟩,
    ⟨⟨by decide +kernel, by decide⟩, xval_of (by decide +kernel), rfl, w16_memory⟩,
    ⟨by decide +kernel, by decide⟩, xval_of (by decide +kernel), rfl, rfl,
    fun i h => by interval_cases i <;> exact spells_of (by decide +kernel)⟩
/-- Strides of 16 pents; the offsets of V6 are 0 and 2, two elements that overlap. -/
theorem witness_StridedAndGatherLoads : Active w16 .p16 2 ∧ w16.xval 5 = .ok 1000 ∧
    (w16.xval 7 = .ok 32 ∧ ∀ i : Nat, i < 2 → Spells w16 16 (1000 + i * 32) (raw .p16 [4, 6] i)) ∧
    (HoldsInts w16 .p16 2 2 (val [0, -3]) ∧ HoldsInts w16 .p16 6 2 (val [0, 2]) ∧
      ∀ i : Nat, i < 2 → Spells w16 16 (1000 + val [0, 2] i) (raw .p16 [4, 30517578125] i)) :=
  ⟨w16_active, w16_x5,
    ⟨w16_x7, fun i h => by interval_cases i <;> exact spells_of (by decide +kernel)⟩,
    w16_v2, holdsInts_of 2 (by decide +kernel),
    fun i h => by interval_cases i <;> exact spells_of (by decide +kernel)⟩
theorem witness_UnitStrideAndSegmentStores :
    (Active w16 .p16 2 ∧ w16.xval 5 = .ok 1000 ∧ 2 % 1 = 0 ∧ 2 % 2 = 0 ∧ HoldsRaw w16 .p16 1 2 (raw .p16 [7, 0]) ∧
      ∀ i : Nat, i < 2 → Storable w16 16 (1000 + i * 16)) ∧
    (Active w28 .p28 2 ∧ w28.xval 5 = .ok 1000 ∧ 2 % 1 = 0 ∧ HoldsRaw w28 .p28 1 2 (raw .p28 [7, 0]) ∧
      ∀ i : Nat, i < 2 → Storable w28 28 (1000 + i * 28)) :=
  ⟨⟨w16_active, w16_x5, rfl, rfl, w16_raw1, fun i h => w16_storable 16 _ (by omega)⟩,
    w28_active, w28_x5, rfl, w28_raw1, fun i h => storable_of ⟨show (0 : Int) ≤ _ by omega,
      show (_ : Int) ≤ 100000 by omega, .inl (show (_ : Int) ≤ 90000 by omega)⟩⟩
theorem witness_StridedAndScatterStores : Active w16 .p16 2 ∧ w16.xval 5 = .ok 1000 ∧
    HoldsRaw w16 .p16 1 2 (raw .p16 [7, 0]) ∧
    (w16.xval 7 = .ok 32 ∧ ∀ i : Nat, i < 2 → Storable w16 16 (1000 + i * 32)) ∧
    (HoldsInts w16 .p16 2 2 (val [0, -3]) ∧ ∀ i : Nat, i < 2 → Storable w16 16 (1000 + val [0, -3] i)) :=
  ⟨w16_active, w16_x5, w16_raw1, ⟨w16_x7, fun i h => w16_storable 16 _ (by omega)⟩, w16_v2,
    fun i h => w16_storable 16 _ (by interval_cases i <;> decide)⟩
theorem witness_StoreThenLoadRestores : Active w16 .p16 2 ∧ w16.xval 5 = .ok 1000 ∧
    HoldsRaw w16 .p16 1 2 (raw .p16 [7, 0]) ∧ ∀ i : Nat, i < 2 → Storable w16 16 (1000 + i * 16) :=
  ⟨w16_active, w16_x5, w16_raw1, fun i h => w16_storable 16 _ (by omega)⟩
/-- Element 0 is active, element 1 is not. -/
theorem witness_MaskedAddition : Active w16 .p16 2 ∧ HoldsBits w16 1 2 (fun i => [true, false].getD i false) ∧
    ∀ i, i < 2 → [true, false].getD i false = true →
      w16.ve 1 .p16 i = .ok (val [7, 0] i) ∧ w16.ve 2 .p16 i = .ok (val [0, -3] i) :=
  ⟨w16_active, w16_vm1, fun i h _ => ⟨w16_v1 i h, w16_v2 i h⟩⟩
theorem witness_MaskedLoad : Active w16 .p16 2 ∧ w16.xval 5 = .ok 1000 ∧
    HoldsBits w16 1 2 (fun i => [true, false].getD i false) ∧
    ∀ i : Nat, i < 2 → [true, false].getD i false = true → Spells w16 16 (1000 + i * 16) (raw .p16 [4, 5, 6] i) :=
  ⟨w16_active, w16_x5, w16_vm1, fun i h _ => w16_memory i (by omega)⟩
theorem witness_MaskedStore : Active w16 .p16 2 ∧ w16.xval 5 = .ok 1000 ∧
    HoldsBits w16 1 2 (fun i => [true, false].getD i false) ∧
    ∀ i : Nat, i < 2 → [true, false].getD i false = true →
      w16.vraw 1 .p16 i = .ok (raw .p16 [7, 0] i) ∧ Storable w16 16 (1000 + i * 16) :=
  ⟨w16_active, w16_x5, w16_vm1, fun i h _ => ⟨w16_raw1 i h, w16_storable 16 _ (by omega)⟩⟩
theorem witness_MaskLogic : w16.vl = some 2 ∧ HoldsBits w16 1 2 (fun i => [true, false].getD i false) ∧
    HoldsBits w16 2 2 (fun i => [false, false].getD i false) := ⟨by decide +kernel, w16_vm1, w16_vm2⟩
/-- A mask with bit 0 set, and one with no bit set. -/
theorem witness_MaskCounts : w16.vl = some 2 ∧
    (HoldsBits w16 1 2 (fun i => [true, false].getD i false) ∧ [true, false].getD 0 false = true) ∧
    (HoldsBits w16 2 2 (fun i => [false, false].getD i false) ∧ ∀ i, i < 2 → [false, false].getD i false = false) :=
  ⟨by decide +kernel, ⟨w16_vm1, rfl⟩, w16_vm2, by decide⟩
theorem witness_PermutationByIndex : Active w16 .p16 2 ∧
    HoldsInts w16 .p16 5 2 (fun i => (([1, 0].getD i 0 : Nat) : Int)) ∧
    ∀ i, i < 2 → [1, 0].getD i 0 < 2 ∧ w16.vraw 1 .p16 ([1, 0].getD i 0) = .ok (raw .p16 [0, 7] i) := by
  refine ⟨w16_active, fun i h => ?_, fun i h => ?_⟩
  · interval_cases i <;> exact ve_of (by decide +kernel)
  · interval_cases i
    · exact ⟨by decide, w16_raw1 1 (by decide)⟩
    · exact ⟨by decide, w16_raw1 0 (by decide)⟩
theorem witness_ReverseAndRotate : Active w16 .p16 2 ∧ HoldsRaw w16 .p16 1 2 (raw .p16 [7, 0]) :=
  ⟨w16_active, w16_raw1⟩
theorem witness_ZipAndUnzip : (3 : VNum) ≠ 4 ∧ Active w16 .p16 2 ∧ HoldsRaw w16 .p16 1 2 (raw .p16 [7, 0]) ∧
    HoldsRaw w16 .p16 2 2 (raw .p16 [0, -3]) := ⟨by decide, w16_active, w16_raw1, w16_raw2⟩
theorem witness_UnzipUndoesZip : (3 : VNum) ≠ 4 ∧ (1 : VNum) ≠ 2 ∧ Active w16 .p16 2 ∧
    HoldsRaw w16 .p16 1 2 (raw .p16 [7, 0]) ∧ HoldsRaw w16 .p16 2 2 (raw .p16 [0, -3]) :=
  ⟨by decide, by decide, w16_active, w16_raw1, w16_raw2⟩
/-- The last active element, at the boundary of the index range. -/
theorem witness_BroadcastExtractInsert : Active w16 .p16 2 ∧ w16.xval 9 = .ok 10 ∧ 1 < 2 ∧
    w16.ve 1 .p16 1 = .ok 0 := ⟨w16_active, w16_x9, by decide, w16_v1 1 (by decide)⟩
theorem witness_UndefinedLengthFaults : (Instr.vmnot 1 2).isConfig = false ∧ (launch (some .p16) none []).vl = none := by
  decide +kernel
theorem witness_LengthTooLargeFaults : (Instr.vaddP16 1 2 3).suffix = some .p16 ∧
    (launch (some .p14) (some 17) []).vl = some 17 ∧ epr .p16 < 17 := by decide +kernel

/-- One active element: no whole structure of two, three or four fields. -/
def w1 : State := { w16 with vl := some 1 }

theorem witness_PartialSegmentFaults : Active w1 .p16 1 ∧ w1.xval 5 = .ok 1000 ∧ 1 % 2 ≠ 0 ∧ 1 % 3 ≠ 0 ∧ 1 % 4 ≠ 0 :=
  ⟨⟨by decide +kernel, by decide⟩, xval_of (by decide +kernel), by decide, by decide, by decide⟩
/-- Both ends of the range: -1 and VL; element 1 of V2 holds -3. -/
theorem witness_IndexRangeFaults : Active w16 .p16 2 ∧ ((-1 : Int) < 0 ∨ (2 : Int) ≤ -1) ∧ ((2 : Int) < 0 ∨ (2 : Int) ≤ 2) ∧
    (1 < 2 ∧ w16.ve 2 .p16 1 = .ok (-3) ∧ w16.ve 2 .p16 0 = .ok ((0 : Nat) : Int) ∧ 0 < 2 ∧
      w16.vraw 1 .p16 0 = .ok (raw .p16 [7, 0] 0)) :=
  ⟨w16_active, .inl (by decide), .inr (by decide), by decide, w16_v2 1 (by decide), w16_v2 0 (by decide), by decide,
    w16_raw1 0 (by decide)⟩
/-- `w16` with base register x5 = `b`. -/
def wBase (b : Int) : State := put w16 (.x 5 b)

/-- MemFault: element 0 reaches 8 pents beyond memory. UndefRead: element 1 is the first that is not in memory. -/
theorem witness_LoadFaultsNameLowestAddress :
    (Active (wBase 99992) .p16 2 ∧ (wBase 99992).xval 5 = .ok 99992 ∧ 0 < 2 ∧
      InRange (99992 + (0 : Nat) * 16) 16 100000 ∧ (wBase 99992).memHi ≤ 100000 ∧
      ∀ c, 99992 + ((0 : Nat) : Int) * 16 ≤ c → c < 100000 → (wBase 99992).memLo ≤ c ∧ c < (wBase 99992).memHi) ∧
    (Active (wBase 1032) .p16 2 ∧ (wBase 1032).xval 5 = .ok 1032 ∧ 1 < 2 ∧
      (∀ j : Nat, j < 1 → ∃ e, Spells (wBase 1032) 16 (1032 + j * 16) e) ∧ InRange (1032 + (1 : Nat) * 16) 16 1048 ∧
      (wBase 1032).memPent 1048 = none ∧
      (∀ c, 1032 + ((1 : Nat) : Int) * 16 ≤ c → c < 1048 → ((wBase 1032).memPent c).isSome) ∧
      ∀ c, InRange (1032 + (1 : Nat) * 16) 16 c → (wBase 1032).memLo ≤ c ∧ c < (wBase 1032).memHi) := by
  refine ⟨⟨⟨by decide +kernel, by decide⟩, xval_of (by decide +kernel), by decide, ⟨by decide, by decide⟩,
      by decide +kernel, fun c h1 h2 => ⟨show (0 : Int) ≤ c by omega, show c < (100000 : Int) by omega⟩⟩,
    ⟨by decide +kernel, by decide⟩, xval_of (by decide +kernel), by decide, fun j h => ⟨strOf 16 6, ?_⟩,
    ⟨by decide, by decide⟩, by decide +kernel, fun c h1 h2 => absurd h2 (by omega),
    fun c h => ⟨show (0 : Int) ≤ c by have := h.1; omega, show c < (100000 : Int) by have := h.2; omega⟩⟩
  obtain rfl : j = 0 := by omega
  exact spells_of (by decide +kernel)
/-- CodeWrite: element 0 reaches the program. MemFault: element 0 reaches 8 pents beyond memory. -/
theorem witness_StoreFaultsNameLowestAddress :
    (Active (wBase 89992) .p16 2 ∧ (wBase 89992).xval 5 = .ok 89992 ∧
      HoldsRaw (wBase 89992) .p16 1 2 (raw .p16 [7, 0]) ∧ 0 < 2 ∧ InRange (89992 + (0 : Nat) * 16) 16 90000 ∧
      ((wBase 89992).codeLo ≤ 90000 ∧ 90000 < (wBase 89992).codeHi) ∧
      (∀ c, 89992 + ((0 : Nat) : Int) * 16 ≤ c → c < 90000 →
        ¬ ((wBase 89992).codeLo ≤ c ∧ c < (wBase 89992).codeHi)) ∧
      ∀ c, InRange (89992 + (0 : Nat) * 16) 16 c → (wBase 89992).memLo ≤ c ∧ c < (wBase 89992).memHi) ∧
    (Active (wBase 99992) .p16 2 ∧ (wBase 99992).xval 5 = .ok 99992 ∧
      HoldsRaw (wBase 99992) .p16 1 2 (raw .p16 [7, 0]) ∧ 0 < 2 ∧ InRange (99992 + (0 : Nat) * 16) 16 100000 ∧
      (wBase 99992).memHi ≤ 100000 ∧
      ∀ c, 99992 + ((0 : Nat) : Int) * 16 ≤ c → c < 100000 → (wBase 99992).memLo ≤ c ∧ c < (wBase 99992).memHi) :=
  ⟨⟨⟨by decide +kernel, by decide⟩, xval_of (by decide +kernel), holdsRaw_of 2 (by decide +kernel), by decide,
      ⟨by decide, by decide⟩, ⟨by decide +kernel, by decide +kernel⟩,
      fun c h1 h2 h3 => absurd (show (90000 : Int) ≤ c from h3.1) (by omega),
      fun c h => ⟨show (0 : Int) ≤ c by have := h.1; omega, show c < (100000 : Int) by have := h.2; omega⟩⟩,
    ⟨by decide +kernel, by decide⟩, xval_of (by decide +kernel), holdsRaw_of 2 (by decide +kernel), by decide,
    ⟨by decide, by decide⟩, by decide +kernel,
    fun c h1 h2 => ⟨show (0 : Int) ≤ c by omega, show c < (100000 : Int) by omega⟩⟩
/-- V3 holds nothing: its pent 0 is the first; V7 holds element 0 alone: pent 16 is the first of element 1. -/
theorem witness_UndefinedElementFaults :
    (Active w16 .p16 2 ∧ 0 < 2 ∧ FirstUndef w16 .p16 3 0 0) ∧
    (Active w16 .p16 2 ∧ 1 < 2 ∧ HoldsInts (put w16 (.v 7 .p16 [1])) .p16 1 1 (val [7]) ∧
      HoldsInts (put w16 (.v 7 .p16 [1])) .p16 7 1 (val [1]) ∧ (put w16 (.v 7 .p16 [1])).ve 1 .p16 1 = .ok 0 ∧
      FirstUndef (put w16 (.v 7 .p16 [1])) .p16 7 1 0) :=
  ⟨⟨w16_active, by decide, by decide, by decide +kernel, fun q h => absurd h (by omega)⟩, w16_active, by decide,
    holdsInts_of 1 (by decide +kernel), holdsInts_of 1 (by decide +kernel), ve_of (by decide +kernel),
    by decide, by decide +kernel, fun q h => absurd h (by omega)⟩
theorem witness_UndefinedScalarFaults : w16.x[(4 : XNum)] = none ∧ w16.vtype = some .p16 ∧ Active w16 .p16 2 :=
  ⟨by decide +kernel, by decide +kernel, w16_active⟩

/-- `w16` with `VADD.P16 V4, V1, V2` loaded as its program. -/
def wAdd : State := w16.loadWord (encode (.vaddP16 4 1 2))

theorem witness_StepRunsDecodedInstruction : wAdd.fault = none ∧ wAdd.codeLo ≤ wAdd.pc ∧ wAdd.pc + 24 ≤ wAdd.codeHi ∧
    (wAdd.pc - wAdd.codeLo) % 24 = 0 ∧ Spells wAdd 24 wAdd.pc (encode (.vaddP16 4 1 2)) ∧
    decode (encode (.vaddP16 4 1 2)) = .ok (.vaddP16 4 1 2) :=
  ⟨by decide +kernel, by decide +kernel, by decide +kernel, by decide +kernel, fetch_ok.mp (fetch_loadWord _ _),
    by decide +kernel⟩
theorem witness_ReservedWordFaults : let s := w16.loadWord (wordOfCodes 440000000000000000000000);
    s.fault = none ∧ s.codeLo ≤ s.pc ∧ s.pc + 24 ≤ s.codeHi ∧ (s.pc - s.codeLo) % 24 = 0 ∧
    Spells s 24 s.pc (wordOfCodes 440000000000000000000000) ∧
    decode (wordOfCodes 440000000000000000000000) = .error .reservedOpcode :=
  ⟨by decide +kernel, by decide +kernel, by decide +kernel, by decide +kernel, fetch_ok.mp (fetch_loadWord _ _),
    by decide +kernel⟩
theorem witness_RunEndings : (State.reset.fault = none ∧ State.reset.pc = State.reset.codeHi) ∧
    ((wBase 0).fault = none ∧ { wBase 0 with pc := 90001 }.pc ≠ (wBase 0).codeHi ∧ ((90001 : Int) - (wBase 0).codeLo) % 24 ≠ 0) ∧
    (State.reset.recordFault (.memFault (-8))).fault = some (.memFault (-8)) := by decide +kernel
/-- A step that faults: VADD.P16 whose second source holds nothing. -/
theorem witness_FaultWritesNothing : let s := w16.loadWord (encode (.vaddP16 4 1 3));
    s.fault = none ∧ faultOf (step s) = some (.undefRead (.v 3 0)) := by decide +kernel
theorem witness_LegalStateKept : Legal wAdd ∧ (nextOf (step wAdd)).isSome = true := by
  refine ⟨⟨by decide +kernel, by decide +kernel, fun a p h => ?_, fun n h => ?_, by decide +kernel, by decide +kernel,
    fun a h1 h2 => ?_, by decide +kernel, by decide +kernel⟩, by decide +kernel⟩
  · have hm : ∀ c ∈ wAdd.mem, wAdd.memLo ≤ c.1 ∧ c.1 < wAdd.memHi := by decide +kernel
    have key : ∀ (m : Memory) (a : Int) (p : Pent), memLookup m a = some p → ∃ c ∈ m, c.1 = a := by
      intro m
      induction m with
      | nil => intro a p h; cases h
      | cons c m ih =>
        intro a p h
        unfold memLookup at h
        split at h
        · next e => exact ⟨_, List.mem_cons_self, e.symm⟩
        · obtain ⟨d, hd, e⟩ := ih a p h; exact ⟨d, List.mem_cons_of_mem _ hd, e⟩
    obtain ⟨c, hc, rfl⟩ := key _ _ _ h
    exact hm c hc
  · have : wAdd.vl = some 2 := by decide +kernel
    rw [this] at h; cases h; decide
  · have h3 : Spells wAdd 24 90000 (encode (.vaddP16 4 1 2)) := fetch_ok.mp (fetch_loadWord _ _)
    have h1' : (90000 : Int) ≤ a := h1
    have h2' : a < (90024 : Int) := h2
    have := (h3 (a - 90000).toNat (by omega)).2.2
    rw [show (90000 : Int) + ((a - 90000).toNat : Int) = a by omega] at this
    rw [this]; rfl
theorem witness_EveryInstructionFrame : (nextOf (exec (.vaddP16 4 1 2) w16)).isSome = true := by decide +kernel
theorem witness_TailAndPaddingKept : (nextOf (exec (.vaddP16 4 1 2) w16)).isSome = true ∧ w16.vl = some 2 ∧
    (Instr.vaddP16 4 1 2).suffix = some .p16 ∧ 2 * ew .p16 ≤ 32 := by decide +kernel
theorem witness_DefinedStaysDefined : (nextOf (exec (.vstP16 1 5) w16)).isSome = true := by decide +kernel
theorem witness_ElementTypeDoesNotInterfere : (Instr.vaddP16 4 1 2).isConfig = false := by decide
theorem witness_DecodeOfEncode : (Instr.vzipP16 5 6 1 2).WF ∧ (Instr.vaddViP16 31 0 (-976562)).WF := by decide
theorem witness_EncodeOfDecode : decode (wordOfCodes 040030010000013222222222) = .ok (.vmulViP16 3 1 976562) := by
  decide +kernel
theorem witness_StringsAndIntegers : -half 16 ≤ 76293945312 ∧ (76293945312 : Int) ≤ half 16 := by decide +kernel
theorem witness_DivisionTruncates : (-1 : Int) ≠ 0 := by decide
theorem witness_RoundingDivision : (10 : Int) ≠ 0 := by decide

end Sys2Proof.Tests
end

section
/-! Pent strings and the integers they spell (R13, R14): a string cut in two is its low part plus a multiple of
the weight of its high part, so dropping high pents keeps the value modulo a power of 5. -/

namespace Sys2Proof.Machine

theorem listVal_append (lo hi : List Pent) : listVal (lo ++ hi) = listVal lo + 5 ^ lo.length * listVal hi := by
  induction lo with
  | nil => simp [listVal]
  | cons d ds ih => simp only [List.cons_append, listVal, ih, List.length_cons, pow_succ]; ring

/-- R14: cutting a string off after pent `n - 1` wraps its value to `n` pents. -/
theorem listVal_take (n : Nat) (ds : List Pent) (h : n ≤ ds.length) : listVal (ds.take n) = wrap n (listVal ds) := by
  have hlen : (ds.take n).length = n := List.length_take_of_le h
  have hsplit : listVal ds = listVal (ds.take n) + 5 ^ n * listVal (ds.drop n) := by
    have happ := listVal_append (ds.take n) (ds.drop n)
    rwa [List.take_append_drop, hlen] at happ
  obtain ⟨hlo, hhi⟩ := listVal_bounds (ds.take n)
  rw [hlen] at hlo hhi
  exact wrap_unique n _ _ hlo hhi ⟨listVal (ds.drop n), by rw [hsplit]; ring⟩

theorem toList_eq_take {n m : Nat} (p : Pat (n + m)) (q : Pat n) (h : ∀ k, (hk : k < n) → q[k] = p[k]) :
    q.toList = p.toList.take n := by
  refine List.ext_getElem (by simp) fun k hk _ => ?_
  simpa using h k (by simpa using hk)

/-- Settles O56: the string of an in-range integer is `strOf n v`, which is the string of its value; the low pents
are the cut-off string of `listVal_take`. -/
theorem stringsAndIntegers : Obligations.StringsAndIntegers := by
  refine ⟨fun n v lo hi => ⟨strOf n v, ?_, ?_⟩, fun n p => ival_bounds p, fun n v => ?_, fun n m p q h => ?_⟩
  · rw [ival_strOf, wrap_of_range n v lo hi]
  · rintro q rfl
    exact (strOf_ival q).symm
  · rw [ival_strOf, dvd_sub_comm]
    exact wrap_dvd n v
  · unfold ival
    rw [toList_eq_take p q h]
    exact listVal_take n p.toList (by simp)

end Sys2Proof.Machine
end

section
/-! What a completed instruction did, said once for all 94: an `Effect` is the one update of the state that an
instruction's destination allows. The 90 instructions that are not of the configuration are `Ordinary`: VL is read
and checked, then come other reads, then the one update, and none of it looks at VTYPE (R28, R32, R33). -/

namespace Sys2Proof.Machine

/-! ## Updates of several registers, and of VTYPE -/

/-- Elements written to vector registers one after another. -/
def State.putAll (s : State) (t : EType) (ws : List (VNum × (Nat → Option (Pat (ew t))))) : State :=
  ws.foldl (fun u w => u.putElems w.1 t w.2) s

/-- `s` with another VTYPE. -/
def State.setType (s : State) (vt : Option EType) : State := { s with vtype := vt }

theorem putAll_cons (s : State) (t : EType) (w : VNum × (Nat → Option (Pat (ew t))))
    (ws : List (VNum × (Nat → Option (Pat (ew t))))) :
    s.putAll t (w :: ws) = (s.putElems w.1 t w.2).putAll t ws := rfl

theorem putAll_setType (s : State) (vt : Option EType) (t : EType)
    (ws : List (VNum × (Nat → Option (Pat (ew t))))) :
    (s.setType vt).putAll t ws = (s.putAll t ws).setType vt := by
  induction ws generalizing s with
  | nil => rfl
  | cons w ws ih => exact ih (s.putElems w.1 t w.2)

theorem putAll_frame (s : State) (t : EType) (ws : List (VNum × (Nat → Option (Pat (ew t))))) :
    s.putAll t ws = { s with v := (s.putAll t ws).v } := by
  induction ws generalizing s with
  | nil => rfl
  | cons w ws ih => rw [putAll_cons, ih]; rfl

/-- R29: a pent that none of the writes reaches keeps what it held. -/
theorem vpent_putAll_kept (s : State) (t : EType) (ws : List (VNum × (Nat → Option (Pat (ew t))))) (m : VNum) (p : Nat)
    (h : ∀ w ∈ ws, m ≠ w.1 ∨ w.2 (p / ew t) = none) : (s.putAll t ws).vpent m p = s.vpent m p := by
  induction ws generalizing s with
  | nil => rfl
  | cons w ws ih =>
    obtain ⟨hw, hws⟩ := List.forall_mem_cons.mp h
    rw [putAll_cons, ih _ hws]
    exact vpent_putElems_kept _ _ _ _ _ _ (hw.imp_right .inr)

theorem vpent_putAll_defined (s : State) (t : EType) (ws : List (VNum × (Nat → Option (Pat (ew t))))) (m : VNum)
    (p : Nat) (h : (s.vpent m p).isSome) : ((s.putAll t ws).vpent m p).isSome := by
  induction ws generalizing s with
  | nil => exact h
  | cons w ws ih => exact ih _ (vpent_putElems_defined _ _ _ _ _ _ h)

theorem commit_map_setType (r : Except Fault State) (vt : Option EType) :
    commit (r.map (·.setType vt)) = mapNext (·.setType vt) (commit r) := by
  cases r <;> rfl

/-! ## The one update of an instruction -/

/-- `Effect s ty lim d u`: from `s` to `u` the destination `d` was written as an instruction with the suffix `ty` may
write it, where `lim` bounds the elements of a vector register and the bits of a mask register. The advance of pc is
not yet made. -/
inductive Effect (s : State) (ty : Option EType) (lim : Nat) : Dest → State → Prop
  /-- R30, R31: VL gets a value of its range. -/
  | length (rd : XNum) (a : Int) (n : Nat) (pos : 1 ≤ n) (le : n ≤ 18) :
      Effect s ty lim (.length rd) { s.putX rd a with vl := some n }
  | elementType (vt : EType) : Effect s ty lim .elementType (s.setType (some vt))
  /-- R25, R29: elements below `lim` alone. -/
  | vectors (t : EType) (suffix : ty = some t) (ws : List (VNum × (Nat → Option (Pat (ew t))))) (draws : Nat)
      (below : ∀ w ∈ ws, ∀ i, lim ≤ i → w.2 i = none) :
      Effect s ty lim (.vectors (ws.map Prod.fst)) { s.putAll t ws with draws := draws }
  | scalar (rd : XNum) (p : Pat 16) : Effect s ty lim (.scalar rd) (s.setX rd p)
  /-- R36: bits below `lim` alone. -/
  | mask (k : MNum) (val : Nat → Option Bool) (below : ∀ i, lim ≤ i → val i = none) :
      Effect s ty lim (.mask k) (s.putMask k val)
  /-- R51, R67: only ranges that may be stored to. -/
  | memory {len : Nat} (ws : List (Int × Pat len)) (storable : ∀ w ∈ ws, Storable s len w.1) :
      Effect s ty lim .memory { s with mem := storedMem s.mem ws }

/-! ## Computations that read and then make one update -/

/-- `f` makes one update of the destination `d`, the same whatever VTYPE is. -/
structure Updates (ty : Option EType) (d : Dest) (lim : Nat) (f : State → Except Fault State) : Prop where
  effect : ∀ s u, f s = .ok u → Effect s ty lim d u
  typeFree : ∀ s vt, f (s.setType vt) = (f s).map (·.setType vt)

section

variable {ty : Option EType} {d : Dest} {lim : Nat}

theorem bind_setType {α : Type} {r : State → Except Fault α} {k : α → State → Except Fault State} {s : State}
    {vt : Option EType} (blind : r (s.setType vt) = r s)
    (rest : ∀ a, r s = .ok a → k a (s.setType vt) = (k a s).map (·.setType vt)) :
    (r (s.setType vt) >>= fun a => k a (s.setType vt)) = (r s >>= fun a => k a s).map (·.setType vt) := by
  rw [blind]
  cases hr : r s with
  | error e => rfl
  | ok a => exact rest a hr

/-- A read that does not look at VTYPE may come before an update. -/
theorem Updates.read {α : Type} {r : State → Except Fault α} {k : α → State → Except Fault State}
    (blind : ∀ s vt, r (s.setType vt) = r s) (rest : ∀ s a, r s = .ok a → Updates ty d lim (k a)) :
    Updates ty d lim fun s => r s >>= fun a => k a s where
  effect s u h := by
    obtain ⟨a, ha, hu⟩ := bind_ok.mp h
    exact (rest s a ha).effect s u hu
  typeFree s vt := bind_setType (blind s vt) fun a ha => (rest s a ha).typeFree s vt

/-- The writes of vector registers, and a move of the count of draws. -/
theorem Updates.vectors {t : EType} (ws : List (VNum × (Nat → Option (Pat (ew t))))) (k : Nat)
    (below : ∀ w ∈ ws, ∀ i, lim ≤ i → w.2 i = none) :
    Updates (some t) (.vectors (ws.map Prod.fst)) lim fun s => .ok { s.putAll t ws with draws := s.draws + k } where
  effect s u h := by cases h; exact .vectors t rfl ws _ below
  typeFree s vt := by rw [putAll_setType]; rfl

theorem Updates.vector {t : EType} (vd : VNum) (val : Nat → Option (Pat (ew t))) (below : ∀ i, lim ≤ i → val i = none) :
    Updates (some t) (.vectors [vd]) lim fun s => .ok (s.putElems vd t val) :=
  .vectors [(vd, val)] 0 (List.forall_mem_singleton.mpr below)

theorem Updates.scalar (rd : XNum) (p : Pat 16) : Updates ty (.scalar rd) lim fun s => .ok (s.setX rd p) where
  effect s u h := by cases h; exact .scalar rd p
  typeFree _ _ := rfl

theorem Updates.mask (k : MNum) (val : Nat → Option Bool) (below : ∀ i, lim ≤ i → val i = none) :
    Updates ty (.mask k) lim fun s => .ok (s.putMask k val) where
  effect s u h := by cases h; exact .mask k val below
  typeFree _ _ := rfl

/-- A store changes memory only where every range may be stored to. -/
theorem Updates.store {len : Nat} (ws : List (Int × Pat len)) : Updates ty .memory lim fun s => s.storeElems ws where
  effect s u h := by
    obtain ⟨hw, rfl⟩ := storeElems_ok.mp h
    exact .memory ws fun w hm => storeFault_storable.mp (hw w hm)
  typeFree s vt := by
    have blind : (fun w : Int × Pat len => (s.setType vt).storeFault len w.1) = fun w => s.storeFault len w.1 := rfl
    unfold State.storeElems
    rw [blind]
    cases ws.findSome? fun w => s.storeFault len w.1 <;> rfl

theorem collect_length {α : Type} {n : Nat} {f : Nat → Except Fault α} {l : List α} (h : collect n f = .ok l) :
    l.length = n := by
  simpa using (congrArg List.length (collectList_ok.mp h)).symm

/-- Reading elements 0 to n - 1 before an update that may rest on how many there are. -/
theorem Updates.collect {α : Type} {n : Nat} {elem : State → Nat → Except Fault α}
    {k : List α → State → Except Fault State} (blind : ∀ s vt, elem (s.setType vt) = elem s)
    (rest : ∀ l : List α, l.length = n → Updates ty d lim (k l)) :
    Updates ty d lim fun s => Machine.collect n (elem s) >>= fun l => k l s :=
  .read (fun s vt => by rw [blind]) fun _ l h => rest l (collect_length h)

theorem getElem?_beyond {α : Type} {l : List α} {n lim i : Nat} (hl : l.length = n) (hn : n ≤ lim) (hi : lim ≤ i) :
    l[i]? = none := List.getElem?_eq_none (by omega)

theorem Updates.writeActive {t : EType} {vd : VNum} {n : Nat} {elem : State → Nat → Except Fault (Pat (ew t))}
    (hn : n ≤ lim) (blind : ∀ s vt, elem (s.setType vt) = elem s) :
    Updates (some t) (.vectors [vd]) lim fun s => Machine.writeActive t vd n s (elem s) :=
  .collect blind fun _ hl => .vector vd _ fun _ hi => getElem?_beyond hl hn hi

/-- A draw for every active element: the count of draws moves by the active length. -/
theorem Updates.writeActive_draws {t : EType} {vd : VNum} {n : Nat} {elem : State → Nat → Except Fault (Pat (ew t))}
    (hn : n ≤ lim) (blind : ∀ s vt, elem (s.setType vt) = elem s) :
    Updates (some t) (.vectors [vd]) lim fun s =>
      Machine.writeActive t vd n s (elem s) >>= fun u => pure { u with draws := s.draws + n } := by
  simp only [Machine.writeActive, bind_assoc, pure_bind]
  exact .collect blind fun l hl =>
    .vectors [(vd, fun i => l[i]?)] n (List.forall_mem_singleton.mpr fun _ hi => getElem?_beyond hl hn hi)

end

/-! ## Computations that read VL first -/

/-- The first read of an instruction with the suffix `ty` (R32, R120, R242). -/
def readLength (ty : Option EType) (s : State) : Except Fault Nat :=
  match ty with
  | some t => activeLen t s
  | none => s.readVL

theorem readLength_setType (ty : Option EType) (s : State) (vt : Option EType) :
    readLength ty (s.setType vt) = readLength ty s := by
  cases ty <;> rfl

theorem readLength_vl {ty : Option EType} {s : State} {n : Nat} (h : readLength ty s = .ok n) : s.vl = some n := by
  cases ty with
  | some t => exact (activeLen_ok.mp h).1
  | none => exact readVL_ok.mp h

theorem readLength_undef {ty : Option EType} {s : State} (h : s.vl = none) :
    readLength ty s = .error (.undefRead .vl) := by
  cases ty with
  | some t => exact activeLen_error.mpr (.inl ⟨h, rfl⟩)
  | none => exact readVL_error.mpr ⟨h, rfl⟩

/-- `f` reads and checks VL, then makes one update of `d`; `always` is how many elements it writes whatever VL is. -/
def Regular (ty : Option EType) (d : Dest) (always : Nat) (f : State → Except Fault State) : Prop :=
  ∃ body : Nat → State → Except Fault State,
    (∀ s, f s = readLength ty s >>= fun n => body n s) ∧ ∀ n, Updates ty d (max always n) (body n)

section

variable {ty : Option EType} {d : Dest} {always : Nat} {f : State → Except Fault State}

theorem Regular.faults (hf : Regular ty d always f) {s : State} {e : Fault} (h : readLength ty s = .error e) :
    f s = .error e := by
  obtain ⟨body, hbody, -⟩ := hf
  rw [hbody, h]; rfl

theorem Regular.effect (hf : Regular ty d always f) {s u : State} (h : f s = .ok u) :
    Effect s ty (max always (s.vl.getD 0)) d u := by
  obtain ⟨body, hbody, hup⟩ := hf
  obtain ⟨n, hn, hu⟩ := bind_ok.mp (hbody s ▸ h)
  rw [readLength_vl hn]
  exact (hup n).effect s u hu

theorem Regular.typeFree (hf : Regular ty d always f) (s : State) (vt : Option EType) :
    f (s.setType vt) = (f s).map (·.setType vt) := by
  obtain ⟨body, hbody, hup⟩ := hf
  rw [hbody, hbody]
  exact bind_setType (readLength_setType ty s vt) fun n _ => (hup n).typeFree s vt

end

end Sys2Proof.Machine
end

section
/-! Each operand shape of the families, and each instruction that has a shape of its own, read as a `Regular`
computation; then every instruction that is not of the configuration is `Ordinary`, and what all 94 did. -/

namespace Sys2Proof.Machine

/-! ## The operand shapes that instructions share -/

theorem intUnary_regular {t : EType} {g : Int → Int} {vd vs : VNum} :
    Regular (some t) (.vectors [vd]) 0 (intUnary t g vd vs) :=
  ⟨_, fun _ => rfl, fun _ => .writeActive (le_max_right _ _) fun _ _ => rfl⟩

theorem intBinary_regular {t : EType} {g : Int → Int → Int} {vd vs1 vs2 : VNum} :
    Regular (some t) (.vectors [vd]) 0 (intBinary t g vd vs1 vs2) :=
  ⟨_, fun _ => rfl, fun _ => .writeActive (le_max_right _ _) fun _ _ => rfl⟩

theorem intScalar_regular {g : Int → Int → Int} {vd vs : VNum} {rs : XNum} :
    Regular (some .p16) (.vectors [vd]) 0 (intScalar g vd vs rs) :=
  ⟨_, fun _ => rfl, fun _ => .read (fun _ _ => rfl) fun _ _ _ => .writeActive (le_max_right _ _) fun _ _ => rfl⟩

theorem intDivide_regular {g : Int → Int → Int} {vd vs1 vs2 : VNum} :
    Regular (some .p16) (.vectors [vd]) 0 (intDivide g vd vs1 vs2) :=
  ⟨_, fun _ => rfl, fun _ => .writeActive_draws (le_max_right _ _) fun _ _ => rfl⟩

theorem intReduce_regular {g : List Int → Int} {rd : XNum} {vs : VNum} :
    Regular (some .p16) (.scalar rd) 0 (intReduce g rd vs) :=
  ⟨_, fun _ => rfl, fun _ => .collect (fun _ _ => rfl) fun _ _ => .scalar rd _⟩

theorem rawUnary_regular {t : EType} {g : Pat (ew t) → Pat (ew t)} {vd vs : VNum} :
    Regular (some t) (.vectors [vd]) 0 (rawUnary t g vd vs) :=
  ⟨_, fun _ => rfl, fun _ => .writeActive (le_max_right _ _) fun _ _ => rfl⟩

theorem rawBinary_regular {t : EType} {g : Pat (ew t) → Pat (ew t) → Pat (ew t)} {vd vs1 vs2 : VNum} :
    Regular (some t) (.vectors [vd]) 0 (rawBinary t g vd vs1 vs2) :=
  ⟨_, fun _ => rfl, fun _ => .writeActive (le_max_right _ _) fun _ _ => rfl⟩

theorem rawTernary_regular {t : EType} {g : Pat (ew t) → Pat (ew t) → Pat (ew t) → Pat (ew t)}
    {vd vs1 vs2 vs3 : VNum} : Regular (some t) (.vectors [vd]) 0 (rawTernary t g vd vs1 vs2 vs3) :=
  ⟨_, fun _ => rfl, fun _ => .writeActive (le_max_right _ _) fun _ _ => rfl⟩

theorem rawScalar_regular {g : Pat (ew .f16) → Pat 16 → Pat (ew .f16)} {vd vs : VNum} {rs : XNum} :
    Regular (some .f16) (.vectors [vd]) 0 (rawScalar g vd vs rs) :=
  ⟨_, fun _ => rfl, fun _ => .read (fun _ _ => rfl) fun _ _ _ => .writeActive (le_max_right _ _) fun _ _ => rfl⟩

theorem quantise_regular {bound : Int} {vd vs : VNum} {scale : Int} :
    Regular (some .p16) (.vectors [vd]) 0 (quantise bound vd vs scale) :=
  ⟨_, fun _ => rfl, fun _ => .writeActive_draws (le_max_right _ _) fun _ _ => rfl⟩

theorem pool_regular {g : List Int → List Int} {vd vs : VNum} :
    Regular (some .p16) (.vectors [vd]) 0 (pool g vd vs) :=
  ⟨_, fun _ => rfl, fun n => .collect (fun _ _ => rfl) fun l _ => .vector vd _ fun i hi => by
    rw [List.getElem?_eq_none (by simp; omega)]; rfl⟩

theorem compareInto_regular {rel : Int → Int → Bool} {k : MNum} {vs1 vs2 : VNum} :
    Regular (some .p16) (.mask k) 0 (compareInto rel k vs1 vs2) :=
  ⟨_, fun _ => rfl, fun _ => .collect (fun _ _ => rfl) fun _ hl =>
    .mask k _ fun _ hi => getElem?_beyond hl (le_max_right _ _) hi⟩

theorem maskBinary_regular {g : Bool → Bool → Bool} {d a b : MNum} :
    Regular none (.mask d) 0 (maskBinary g d a b) :=
  ⟨_, fun _ => rfl, fun _ => .collect (fun _ _ => rfl) fun _ hl =>
    .mask d _ fun _ hi => getElem?_beyond hl (le_max_right _ _) hi⟩

theorem maskUnary_regular {g : Bool → Bool} {d a : MNum} : Regular none (.mask d) 0 (maskUnary g d a) :=
  ⟨_, fun _ => rfl, fun _ => .collect (fun _ _ => rfl) fun _ hl =>
    .mask d _ fun _ hi => getElem?_beyond hl (le_max_right _ _) hi⟩

theorem maskReduce_regular {g : List Bool → Int} {rd : XNum} {k : MNum} :
    Regular none (.scalar rd) 0 (maskReduce g rd k) :=
  ⟨_, fun _ => rfl, fun _ => .collect (fun _ _ => rfl) fun _ _ => .scalar rd _⟩

theorem pairPermute_regular {cat : List (Pat 16 × Pat 16) → List (Pat 16)} {sel1 sel2 : Nat → Nat → Nat}
    {vd1 vd2 vs1 vs2 : VNum} :
    Regular (some .p16) (.vectors [vd1, vd2]) 0 (pairPermute cat sel1 sel2 vd1 vd2 vs1 vs2) :=
  ⟨_, fun _ => rfl, fun n => .collect (fun _ _ => rfl) fun l _ =>
    .vectors (t := .p16)
      [(vd1, fun j => if j < n then (cat l)[sel1 n j]? else none),
        (vd2, fun j => if j < n then (cat l)[sel2 n j]? else none)] 0 (by
      simp only [List.forall_mem_cons, List.not_mem_nil, false_imp_iff, implies_true, and_true]
      exact ⟨fun i hi => if_neg (by omega), fun i hi => if_neg (by omega)⟩)⟩

/-! ## Loads and stores -/

/-- R210: the length is read and checked before the base address. -/
theorem baseAddr_bind {α : Type} (t : EType) (base : XNum) (s : State) (k : Nat × Int → Except Fault α) :
    (baseAddr t base s >>= k) = activeLen t s >>= fun n => s.xval base >>= fun b => k (n, b) := by
  simp only [baseAddr, bind_assoc, pure_bind]

/-- What follows the base address makes the update. -/
theorem regular_baseAddr {t : EType} {base : XNum} {d : Dest} {f : State → Except Fault State}
    {k : Nat × Int → State → Except Fault State} (hf : ∀ s, f s = baseAddr t base s >>= fun p => k p s)
    (hk : ∀ n b, Updates (some t) d (max 0 n) (k (n, b))) : Regular (some t) d 0 f :=
  ⟨_, fun s => (hf s).trans (baseAddr_bind t base s _), fun n => .read (fun _ _ => rfl) fun _ b _ => hk n b⟩

theorem Updates.loadActive {lim : Nat} {t : EType} {vd : VNum} {n : Nat} {addr : Nat → Int} (hn : n ≤ lim) :
    Updates (some t) (.vectors [vd]) lim (Machine.loadActive t vd n addr) :=
  .writeActive hn fun _ _ => rfl

theorem Updates.storeActive {ty : Option EType} {lim : Nat} {t : EType} {vs : VNum} {n : Nat} {addr : Nat → Int} :
    Updates ty .memory lim (Machine.storeActive t vs n addr) :=
  .collect (fun _ _ => rfl) fun ws _ => .store ws

theorem loadUnit_regular {t : EType} {vd : VNum} {base : XNum} :
    Regular (some t) (.vectors [vd]) 0 (loadUnit t vd base) :=
  regular_baseAddr (fun _ => rfl) fun _ _ => .loadActive (le_max_right _ _)

theorem storeUnit_regular {t : EType} {vs : VNum} {base : XNum} : Regular (some t) .memory 0 (storeUnit t vs base) :=
  regular_baseAddr (fun _ => rfl) fun _ _ => .storeActive

theorem loadSegments_regular {fields : Nat} {vd : VNum} {base : XNum} :
    Regular (some .p16) (.vectors [vd]) 0 (loadSegments fields vd base) :=
  regular_baseAddr (fun _ => rfl) fun _ _ => .read (fun _ _ => rfl) fun _ _ _ => .loadActive (le_max_right _ _)

/-! ## Ordinary instructions -/

/-- R201: how many elements an instruction writes whatever VL is. -/
def alwaysWritten : Instr → Nat
  | .vmatvecP16 _ _ _ => 4
  | _ => 0

/-- R28, R32: the instruction reads VL, checks it against its suffix, and ends in one update of its destination. -/
def Ordinary (i : Instr) : Prop :=
  ∃ f, (∀ s, exec i s = commit (f s)) ∧ Regular i.suffix i.dest (alwaysWritten i) f

/-! ## The instructions with a shape of their own -/

theorem vwmulP16_ordinary (vd1 vd2 vs1 vs2 : VNum) : Ordinary (.vwmulP16 vd1 vd2 vs1 vs2) :=
  ⟨_, fun _ => rfl, _, fun _ => rfl, fun n => .collect (fun _ _ => rfl) fun l hl =>
    .vectors (t := .p16)
      [(vd1, fun i => (l[i]?).map fun p => strOf 16 (wrap 16 p)),
        (vd2, fun i => (l[i]?).map fun p => strOf 16 ((p - wrap 16 p) / 5 ^ 16))] 0 (by
      have unwritten : ∀ i, max 0 n ≤ i → l[i]? = none := fun _ hi => getElem?_beyond hl (le_max_right _ _) hi
      simp +contextual [unwritten])⟩

theorem vdotP16_ordinary (rd : XNum) (vs1 vs2 : VNum) : Ordinary (.vdotP16 rd vs1 vs2) :=
  ⟨_, fun _ => rfl, _, fun _ => rfl, fun _ => .collect (fun _ _ => rfl) fun _ _ => .scalar rd _⟩

theorem vredsumF16_ordinary (rd : XNum) (vs : VNum) : Ordinary (.vredsumF16 rd vs) :=
  ⟨_, fun _ => rfl, _, fun _ => rfl, fun _ => .collect (fun _ _ => rfl) fun _ _ => .scalar rd _⟩

theorem vgavgpoolP16_ordinary (rd : XNum) (vs : VNum) : Ordinary (.vgavgpoolP16 rd vs) :=
  ⟨_, fun _ => rfl, _, fun _ => rfl, fun _ => .collect (fun _ _ => rfl) fun _ _ => .scalar rd _⟩

theorem vmatvecP16_ordinary (vd : VNum) (base : GNum) (vs : VNum) : Ordinary (.vmatvecP16 vd base vs) :=
  ⟨_, fun _ => rfl, _, fun _ => rfl, fun n =>
    .read (fun _ _ => rfl) fun _ a0 _ => .read (fun _ _ => rfl) fun _ a1 _ => .read (fun _ _ => rfl) fun _ a2 _ =>
      .read (fun _ _ => rfl) fun _ a3 _ => .vector vd _ fun i hi => by
        rw [getElem?_beyond (n := 4) rfl (le_max_left 4 n) hi]; rfl⟩

theorem vouterP16_ordinary (base : GNum) (vs1 vs2 : VNum) : Ordinary (.vouterP16 base vs1 vs2) :=
  ⟨_, fun _ => rfl, _, fun _ => rfl, fun n =>
    .collect (fun _ _ => rfl) fun r0 h0 => .collect (fun _ _ => rfl) fun r1 h1 =>
      .collect (fun _ _ => rfl) fun r2 h2 => .collect (fun _ _ => rfl) fun r3 h3 =>
        .vectors (t := .p16)
          [(groupReg base 0, fun j => (r0[j]?).map (strOf 16)), (groupReg base 1, fun j => (r1[j]?).map (strOf 16)),
            (groupReg base 2, fun j => (r2[j]?).map (strOf 16)), (groupReg base 3, fun j => (r3[j]?).map (strOf 16))]
          0 (by
          simp +contextual [h0, h1, h2, h3])⟩

theorem vmmcrossP16_ordinary (vd vs : VNum) (imm : Int) : Ordinary (.vmmcrossP16 vd vs imm) :=
  ⟨_, fun _ => rfl, _, fun _ => rfl, fun _ => .collect (fun _ _ => rfl) fun _ _ =>
    .vector vd _ fun _ hi => if_neg (by omega)⟩

theorem vldsP16_ordinary (vd : VNum) (rs rt : XNum) : Ordinary (.vldsP16 vd rs rt) :=
  ⟨_, fun _ => rfl, regular_baseAddr (fun _ => rfl) fun _ _ =>
    .read (fun _ _ => rfl) fun _ _ _ => .loadActive (le_max_right _ _)⟩

theorem vstsP16_ordinary (vs : VNum) (rd rt : XNum) : Ordinary (.vstsP16 vs rd rt) :=
  ⟨_, fun _ => rfl, regular_baseAddr (fun _ => rfl) fun _ _ => .read (fun _ _ => rfl) fun _ _ _ => .storeActive⟩

theorem vldiP16_ordinary (vd : VNum) (rs : XNum) (vi : VNum) : Ordinary (.vldiP16 vd rs vi) :=
  ⟨_, fun _ => rfl, regular_baseAddr (fun _ => rfl) fun _ _ =>
    .collect (fun _ _ => rfl) fun _ _ => .loadActive (le_max_right _ _)⟩

theorem vstiP16_ordinary (vs : VNum) (rd : XNum) (vi : VNum) : Ordinary (.vstiP16 vs rd vi) :=
  ⟨_, fun _ => rfl, regular_baseAddr (fun _ => rfl) fun _ _ => .collect (fun _ _ => rfl) fun ws _ => .store ws⟩

theorem vsseg2P16_ordinary (vs : VNum) (rd : XNum) : Ordinary (.vsseg2P16 vs rd) :=
  ⟨_, fun _ => rfl, regular_baseAddr (fun _ => rfl) fun _ _ => .read (fun _ _ => rfl) fun _ _ _ => .storeActive⟩

theorem Updates.writeMasked {lim : Nat} {t : EType} {vd : VNum} {n : Nat} {ms : List Bool}
    {elem : State → Nat → Except Fault (Pat (ew t))} (hn : n ≤ lim) (blind : ∀ s vt, elem (s.setType vt) = elem s) :
    Updates (some t) (.vectors [vd]) lim fun s => Machine.writeMasked t vd n ms s (elem s) :=
  .read (r := fun s => collectMasked n ms (elem s)) (fun s vt => by rw [blind]) fun _ l h => .vector vd _ fun i hi => by
    rw [List.getD_eq_getElem?_getD, getElem?_beyond (collect_length h) hn hi]; rfl

theorem vaddP16M_ordinary (vd vs1 vs2 : VNum) (vm : MNum) : Ordinary (.vaddP16M vd vs1 vs2 vm) :=
  ⟨_, fun _ => rfl, _, fun _ => rfl, fun _ =>
    .read (fun _ _ => rfl) fun _ _ _ => .writeMasked (le_max_right _ _) fun _ _ => rfl⟩

theorem vldP16M_ordinary (vd : VNum) (rs : XNum) (vm : MNum) : Ordinary (.vldP16M vd rs vm) :=
  ⟨_, fun _ => rfl, regular_baseAddr (fun _ => rfl) fun _ _ =>
    .read (fun _ _ => rfl) fun _ _ _ => .writeMasked (le_max_right _ _) fun _ _ => rfl⟩

theorem vstP16M_ordinary (vs : VNum) (rd : XNum) (vm : MNum) : Ordinary (.vstP16M vs rd vm) :=
  ⟨_, fun _ => rfl, regular_baseAddr (fun _ => rfl) fun _ _ =>
    .read (fun _ _ => rfl) fun _ _ _ => .read (fun _ _ => rfl) fun _ _ _ => .store _⟩

theorem vpermP16_ordinary (vd vs vi : VNum) : Ordinary (.vpermP16 vd vs vi) :=
  ⟨_, fun _ => rfl, _, fun _ => rfl, fun _ => .writeActive (le_max_right _ _) fun _ _ => rfl⟩

theorem vrevP16_ordinary (vd vs : VNum) : Ordinary (.vrevP16 vd vs) :=
  ⟨_, fun _ => rfl, _, fun _ => rfl, fun _ => .writeActive (le_max_right _ _) fun _ _ => rfl⟩

theorem vrotP16_ordinary (vd vs : VNum) (imm : Int) : Ordinary (.vrotP16 vd vs imm) :=
  ⟨_, fun _ => rfl, _, fun _ => rfl, fun _ => .collect (fun _ _ => rfl) fun _ _ =>
    .vector vd _ fun _ hi => if_neg (by omega)⟩

theorem vbroadcastP16_ordinary (vd : VNum) (rs : XNum) : Ordinary (.vbroadcastP16 vd rs) :=
  ⟨_, fun _ => rfl, _, fun _ => rfl, fun _ =>
    .read (fun _ _ => rfl) fun _ _ _ => .writeActive (le_max_right _ _) fun _ _ => rfl⟩

theorem vextractP16_ordinary (rd : XNum) (vs : VNum) (imm : Int) : Ordinary (.vextractP16 rd vs imm) :=
  ⟨_, fun _ => rfl, _, fun _ => rfl, fun _ =>
    .read (fun _ _ => rfl) fun _ _ _ => .read (fun _ _ => rfl) fun _ _ _ => .scalar rd _⟩

/-- R258: the one element written lies below VL, since its index was checked. -/
theorem vinsertP16_ordinary (vd : VNum) (rs : XNum) (imm : Int) : Ordinary (.vinsertP16 vd rs imm) :=
  ⟨_, fun _ => rfl, _, fun _ => rfl, fun n =>
    .read (r := fun _ => checkIndex imm n) (fun _ _ => rfl) fun _ k hk => .read (fun _ _ => rfl) fun _ _ _ =>
      .vector vd _ fun i hi => if_neg (by have := (checkIndex_ok.mp hk).2; omega)⟩

/-! ## All instructions -/

/-- R28, R30, R32: the 90 instructions that are not of the configuration, by operand shape. -/
theorem ordinary_of_not_config (i : Instr) (h : i.isConfig = false) : Ordinary i := by
  cases i
  case setvl | setvli | vsettype | vgetcfg => simp [Instr.isConfig, Instr.dest] at h
  case vnegP16 | vaddViP16 | vmulViP16 | vreluP16 | vlreluP16 => exact ⟨_, fun _ => rfl, intUnary_regular⟩
  case vaddP16 | vaddP28 | vaddP14 | vsubP16 | vsubP28 | vmulP16 => exact ⟨_, fun _ => rfl, intBinary_regular⟩
  case vaddVxP16 | vmulVxP16 => exact ⟨_, fun _ => rfl, intScalar_regular⟩
  case vdivP16 | vmodP16 => exact ⟨_, fun _ => rfl, intDivide_regular⟩
  case vredsumP16 | vredmaxP16 | vredminP16 => exact ⟨_, fun _ => rfl, intReduce_regular⟩
  case vmseqP16 | vmsneP16 | vmsltP16 | vmsleP16 | vmsgtP16 | vmsgeP16 =>
    exact ⟨_, fun _ => rfl, compareInto_regular⟩
  case vfsqrtF16 | vfrcpF16 | vfrsqrtF16 | vfabsF16 | vfnegF16 | vreluF16 | vsigmoidF16 | vtanhF16 | vexpF16
      | vdequant5F16 => exact ⟨_, fun _ => rfl, rawUnary_regular⟩
  case vfaddF16 | vfaddF28 | vfsubF16 | vfsubF28 | vfmulF16 | vfmulF28 | vfdivF16 | vfdivF28 | vfminF16 | vfmaxF16 =>
    exact ⟨_, fun _ => rfl, rawBinary_regular⟩
  case vfmaddF16 | vfmsubF16 | vfnmaddF16 => exact ⟨_, fun _ => rfl, rawTernary_regular⟩
  case vfdivVxF16 => exact ⟨_, fun _ => rfl, rawScalar_regular⟩
  case vquant5P16 | vquant25P16 => exact ⟨_, fun _ => rfl, quantise_regular⟩
  case vmaxpool2P16 | vavgpool2P16 => exact ⟨_, fun _ => rfl, pool_regular⟩
  case vldP16 | vldP28 | vldF16 => exact ⟨_, fun _ => rfl, loadUnit_regular⟩
  case vstP16 | vstP28 | vstF16 => exact ⟨_, fun _ => rfl, storeUnit_regular⟩
  case vlseg2P16 | vlseg3P16 | vlseg4P16 => exact ⟨_, fun _ => rfl, loadSegments_regular⟩
  case vmand | vmor | vmxor => exact ⟨_, fun _ => rfl, maskBinary_regular⟩
  case vmnot => exact ⟨_, fun _ => rfl, maskUnary_regular⟩
  case vmpopc | vmffs => exact ⟨_, fun _ => rfl, maskReduce_regular⟩
  case vzipP16 | vunzipP16 => exact ⟨_, fun _ => rfl, pairPermute_regular⟩
  case vwmulP16 => exact vwmulP16_ordinary _ _ _ _
  case vdotP16 => exact vdotP16_ordinary _ _ _
  case vredsumF16 => exact vredsumF16_ordinary _ _
  case vgavgpoolP16 => exact vgavgpoolP16_ordinary _ _
  case vmatvecP16 => exact vmatvecP16_ordinary _ _ _
  case vouterP16 => exact vouterP16_ordinary _ _ _
  case vmmcrossP16 => exact vmmcrossP16_ordinary _ _ _
  case vldsP16 => exact vldsP16_ordinary _ _ _
  case vstsP16 => exact vstsP16_ordinary _ _ _
  case vldiP16 => exact vldiP16_ordinary _ _ _
  case vstiP16 => exact vstiP16_ordinary _ _ _
  case vsseg2P16 => exact vsseg2P16_ordinary _ _
  case vaddP16M => exact vaddP16M_ordinary _ _ _ _
  case vldP16M => exact vldP16M_ordinary _ _ _
  case vstP16M => exact vstP16M_ordinary _ _ _
  case vpermP16 => exact vpermP16_ordinary _ _ _
  case vrevP16 => exact vrevP16_ordinary _ _
  case vrotP16 => exact vrotP16_ordinary _ _ _
  case vbroadcastP16 => exact vbroadcastP16_ordinary _ _
  case vextractP16 => exact vextractP16_ordinary _ _ _
  case vinsertP16 => exact vinsertP16_ordinary _ _ _

/-- R31: the length that SETVL and SETVLI set is in the range of VL. -/
theorem setLength_effect {rd : XNum} {ty : EType} {r : Int} {s u : State} {suffix : Option EType} {lim : Nat}
    (h : setLength rd ty r s = .ok u) : Effect s suffix lim (.length rd) u := by
  obtain ⟨hr, rfl⟩ := setLength_ok.mp h
  have hv : 1 ≤ vlmax ty ∧ vlmax ty ≤ 18 := by cases ty <;> decide
  exact .length rd _ _ (by omega) (by omega)

/-- Everything an instruction that completes did: one update of its destination, then the advance of pc. -/
theorem exec_next {i : Instr} {s u : State} (h : exec i s = .next u) :
    ∃ t, Effect s i.suffix (max (alwaysWritten i) (s.vl.getD 0)) i.dest t ∧ u = t.advance := by
  cases hc : i.isConfig with
  | false =>
    obtain ⟨f, hf, hreg⟩ := ordinary_of_not_config i hc
    obtain ⟨t, ht, rfl⟩ := commit_next.mp (hf s ▸ h)
    exact ⟨t, hreg.effect ht, rfl⟩
  | true =>
    cases i
    case setvl rd rs =>
      obtain ⟨t, ht, rfl⟩ := commit_next.mp h
      obtain ⟨ty, -, ht⟩ := bind_ok.mp ht
      obtain ⟨r, -, ht⟩ := bind_ok.mp ht
      exact ⟨t, setLength_effect ht, rfl⟩
    case setvli rd imm =>
      obtain ⟨t, ht, rfl⟩ := commit_next.mp h
      obtain ⟨ty, -, ht⟩ := bind_ok.mp ht
      exact ⟨t, setLength_effect ht, rfl⟩
    case vsettype vt =>
      cases h
      exact ⟨_, .elementType vt, rfl⟩
    case vgetcfg rd =>
      obtain ⟨t, ht, rfl⟩ := commit_next.mp h
      obtain ⟨ty, -, ht⟩ := bind_ok.mp ht
      cases ht
      exact ⟨_, .scalar rd _, rfl⟩
    all_goals simp [Instr.isConfig, Instr.dest] at hc

end Sys2Proof.Machine
end

section
/-! What every instruction keeps: each statement is a case analysis over the six effects of `exec_next`, or a
property of the reads that come before the effect. -/

namespace Sys2Proof.Machine

/-! ## Reading VL first, and not looking at VTYPE -/

/-- A fault of the first read is the fault of the instruction. -/
theorem exec_fault_of_readLength {i : Instr} {s : State} {e : Fault} (hi : i.isConfig = false)
    (h : readLength i.suffix s = .error e) : exec i s = .fault e := by
  obtain ⟨f, hf, hreg⟩ := ordinary_of_not_config i hi
  rw [hf, hreg.faults h]; rfl

/-- Settles O35: VL is the first read of an ordinary instruction. -/
theorem undefinedLengthFaults : Obligations.UndefinedLengthFaults :=
  fun _ _ hi hvl => exec_fault_of_readLength hi (readLength_undef hvl)

theorem isConfig_of_suffix {i : Instr} {t : EType} (h : i.suffix = some t) : i.isConfig = false := by
  cases i
  case setvl | setvli | vsettype | vgetcfg => cases h
  all_goals simp [Instr.isConfig, Instr.dest]

/-- Settles O36: the first read checks VL against the suffix. -/
theorem lengthTooLargeFaults : Obligations.LengthTooLargeFaults := by
  intro i s t n ht hvl hn
  refine exec_fault_of_readLength (isConfig_of_suffix ht) ?_
  rw [ht]
  exact activeLen_error.mpr (.inr ⟨n, hvl, hn, rfl⟩)

/-- Settles O52: an ordinary instruction computes the same update whatever VTYPE is (`Regular.typeFree`). -/
theorem elementTypeDoesNotInterfere : Obligations.ElementTypeDoesNotInterfere := by
  intro i s vt hi
  obtain ⟨f, hf, hreg⟩ := ordinary_of_not_config i hi
  show exec i (s.setType vt) = mapNext (·.setType vt) (exec i s)
  rw [hf, hf, hreg.typeFree, commit_map_setType]

/-! ## What an effect leaves -/

/-- R51, R67: an address that may not be stored to reads as before after a store. -/
theorem memLookup_storedMem_unstorable {len : Nat} {s : State} {ws : List (Int × Pat len)} {a : Int}
    (storable : ∀ w ∈ ws, Storable s len w.1)
    (ha : (a < s.memLo ∨ s.memHi ≤ a) ∨ (s.codeLo ≤ a ∧ a < s.codeHi)) :
    memLookup (storedMem s.mem ws) a = memLookup s.mem a := by
  refine memLookup_storedMem_outside _ _ _ fun w hw hr => ?_
  obtain ⟨hlo, hhi, hcode⟩ := storable w hw a hr
  rcases ha with (h | h) | h
  · omega
  · omega
  · exact hcode h

theorem memLookup_storedMem_defined {len : Nat} (m : Memory) (ws : List (Int × Pat len)) (a : Int)
    (h : (memLookup m a).isSome) : (memLookup (storedMem m ws) a).isSome := by
  induction ws generalizing m with
  | nil => exact h
  | cons w ws ih => exact ih _ (memLookup_writePents_defined _ _ _ _ h)

/-- The frame of each effect, once pc is advanced. -/
theorem Effect.frame {s t : State} {ty : Option EType} {lim : Nat} {d : Dest} (h : Effect s ty lim d t) :
    FrameOf d s t.advance := by
  cases h with
  | length rd a n _ _ =>
    exact ⟨fun r hr => (xraw_setX s rd r _).trans (if_neg hr), rfl⟩
  | elementType vt => rfl
  | vectors t' _ ws draws _ =>
    refine ⟨fun m p hm => ?_, ?_⟩
    · exact vpent_putAll_kept s t' ws m p fun w hw => .inl fun e => hm (List.mem_map.mpr ⟨w, hw, e.symm⟩)
    · rw [putAll_frame]; rfl
  | scalar rd p => exact ⟨fun r hr => (xraw_setX s rd r p).trans (if_neg hr), rfl⟩
  | mask k val _ => exact ⟨fun j i hj => mbit_putMask_kept s k j val i (.inl hj), rfl⟩
  | memory ws storable => exact ⟨fun a ha => memLookup_storedMem_unstorable storable ha, rfl⟩

/-- Settles O49: the frame of the one effect of an instruction. -/
theorem everyInstructionFrame : Obligations.EveryInstructionFrame := by
  intro i s u h
  obtain ⟨t, ht, rfl⟩ := exec_next h
  exact ht.frame

/-- Only a vector destination changes vector registers, and only below the limit under the suffix type. -/
theorem Effect.vpent_above {s t : State} {ty : EType} {lim : Nat} {d : Dest} (h : Effect s (some ty) lim d t) (m : VNum)
    {p : Nat} (hp : lim * ew ty ≤ p) : t.vpent m p = s.vpent m p := by
  cases h with
  | vectors t' ht ws draws below =>
    cases ht
    exact vpent_putAll_kept s ty ws m p fun w hw =>
      .inr (below w hw _ ((Nat.le_div_iff_mul_le (ew_pos ty)).mpr hp))
  | length | elementType | scalar | mask | memory => rfl

/-- Only a mask destination changes mask registers, and only below the limit. -/
theorem Effect.mbit_above {s t : State} {ty : Option EType} {lim : Nat} {d : Dest} (h : Effect s ty lim d t) (k : MNum)
    {j : Nat} (hj : ∀ k', d = .mask k' → lim ≤ j) : t.mbit k j = s.mbit k j := by
  cases h with
  | mask k' val below => exact mbit_putMask_kept s k' k val j (.inr (below j (hj k' rfl)))
  | vectors t' _ ws draws _ => rw [putAll_frame]; rfl
  | length | elementType | scalar | memory => rfl

theorem alwaysWritten_mul_le {i : Instr} {w p : Nat} (h : ∀ vd b vs, i = .vmatvecP16 vd b vs → 4 * w ≤ p) :
    alwaysWritten i * w ≤ p := by
  unfold alwaysWritten
  split
  · exact h _ _ _ rfl
  · omega

theorem alwaysWritten_of_mask {i : Instr} {k : MNum} (h : i.dest = .mask k) : alwaysWritten i = 0 := by
  unfold alwaysWritten
  split
  · cases h
  · rfl

/-- Settles O50: the written elements and bits lie below VL, or below 4 in VMATVEC. -/
theorem tailAndPaddingKept : Obligations.TailAndPaddingKept := by
  intro i s u n h hvl
  obtain ⟨t, ht, rfl⟩ := exec_next h
  rw [hvl, Option.getD_some] at ht
  refine ⟨fun ty m p hty hp hmat => ?_, fun k j hj => ?_⟩
  · rw [hty] at ht
    refine ht.vpent_above m ?_
    rw [max_mul_of_nonneg _ _ (Nat.zero_le _)]
    exact max_le (alwaysWritten_mul_le hmat) hp
  · refine ht.mbit_above k fun k' hd => ?_
    rw [alwaysWritten_of_mask hd]
    omega

theorem mbit_putMask_defined (s : State) (k j : MNum) (val : Nat → Option Bool) (i : Nat) (h : (s.mbit j i).isSome) :
    ((s.putMask k val).mbit j i).isSome := by
  by_cases hi : i < 18
  · rw [mbit_putMask _ _ _ _ _ hi]
    split
    · next e => subst e; simp [h]
    · exact h
  · rw [mbit_beyond _ _ _ (by omega)] at h; cases h

theorem setX_defined (s : State) (rd r : XNum) (p : Pat 16) (h : (s.x[r]).isSome) : ((s.setX rd p).x[r]).isSome := by
  by_cases e : r = rd
  · subst e; simp
  · simpa [Fin.val_ne_of_ne (Ne.symm e)] using h

theorem KeepsDefined.refl (s : State) : KeepsDefined s s :=
  ⟨fun _ _ h => h, fun _ _ h => h, fun _ h => h, fun h => h, fun h => h, fun _ h => h⟩

/-- R44: an effect only ever gives values. -/
theorem Effect.keepsDefined {s t : State} {ty : Option EType} {lim : Nat} {d : Dest} (h : Effect s ty lim d t) :
    KeepsDefined s t := by
  cases h with
  | length rd a n _ _ =>
    exact { KeepsDefined.refl s with scalars := fun r => setX_defined s rd r _, length := fun _ => rfl }
  | elementType vt => exact { KeepsDefined.refl s with elementType := fun _ => rfl }
  | vectors t' _ ws draws _ =>
    rw [putAll_frame]
    exact { KeepsDefined.refl s with vectors := vpent_putAll_defined s t' ws }
  | scalar rd p => exact { KeepsDefined.refl s with scalars := fun r => setX_defined s rd r p }
  | mask k val _ => exact { KeepsDefined.refl s with masks := fun j i => mbit_putMask_defined s k j val i }
  | memory ws _ => exact { KeepsDefined.refl s with memory := memLookup_storedMem_defined s.mem ws }

/-- The advance of pc keeps every value. -/
theorem KeepsDefined.advance {s t : State} (h : KeepsDefined s t) : KeepsDefined s t.advance :=
  ⟨h.vectors, h.masks, h.scalars, h.length, h.elementType, h.memory⟩

/-- Settles O51: no effect takes a value away. -/
theorem definedStaysDefined : Obligations.DefinedStaysDefined := by
  intro i s u h
  obtain ⟨t, ht, rfl⟩ := exec_next h
  exact ht.keepsDefined.advance

end Sys2Proof.Machine
end

section
/-! Legal states: an effect keeps a state legal where pc stands, a fetch that lay in the program lets pc advance,
and loading a word at pc keeps the program a whole number of defined words. -/

namespace Sys2Proof.Machine

theorem Effect.keepsLaunch {s t : State} {ty : Option EType} {lim : Nat} {d : Dest} (h : Effect s ty lim d t) :
    t.pc = s.pc ∧ t.codeHi = s.codeHi := by
  cases h with
  | vectors t' _ ws draws _ => rw [putAll_frame]; exact ⟨rfl, rfl⟩
  | length | elementType | scalar | mask | memory => exact ⟨rfl, rfl⟩

/-- R51: a store to ranges that may be stored to leaves memory inside the valid range. -/
theorem storedMem_inRange {len : Nat} {s : State} {ws : List (Int × Pat len)}
    (storable : ∀ w ∈ ws, Storable s len w.1) (hs : ∀ a p, s.memPent a = some p → s.memLo ≤ a ∧ a < s.memHi) {a : Int}
    {p : Pent} (h : memLookup (storedMem s.mem ws) a = some p) : s.memLo ≤ a ∧ a < s.memHi := by
  by_cases hr : ∃ w ∈ ws, InRange w.1 len a
  · obtain ⟨w, hw, hin⟩ := hr
    obtain ⟨hlo, hhi, -⟩ := storable w hw a hin
    exact ⟨hlo, hhi⟩
  · rw [memLookup_storedMem_outside _ _ _ fun w hw hin => hr ⟨w, hw, hin⟩] at h
    exact hs a p h

/-- The one update of an instruction keeps a state legal. -/
theorem Effect.legal {s t : State} {ty : Option EType} {lim : Nat} {d : Dest} (h : Effect s ty lim d t)
    (hs : Legal s) : Legal t := by
  cases h with
  | length rd a n pos le =>
    exact { hs with length := fun m hm => by cases hm; exact ⟨pos, le⟩ }
  | elementType vt => exact { hs with }
  | vectors t' _ ws draws _ =>
    rw [putAll_frame]
    exact { hs with }
  | scalar rd p => exact { hs with }
  | mask k val _ => exact { hs with }
  | memory ws storable =>
    exact { hs with
      memory := storedMem_wf _ _ hs.memory
      memoryInRange := fun a p => storedMem_inRange storable hs.memoryInRange
      codeDefined := fun a lo hi => memLookup_storedMem_defined _ _ _ (hs.codeDefined a lo hi) }

/-- R279: from an instruction of the program pc advances to the next, or to the program's end. -/
theorem Legal.advance {s : State} (hs : Legal s) (hpc : s.pc + 24 ≤ s.codeHi) : Legal s.advance := by
  obtain ⟨hlo, -⟩ := hs.pcInCode
  have hwords := hs.pcWords
  exact { hs with
    pcInCode := ⟨show s.codeLo ≤ s.pc + 24 by omega, hpc⟩
    pcWords := show (s.pc + 24 - s.codeLo) % 24 = 0 by omega }

/-- Settles O47: the instruction's update keeps the state legal, and the word it was fetched from lay in the
program. -/
theorem legalStateKept : Obligations.LegalStateKept := by
  intro s u hs h
  obtain ⟨-, hlegal, w, i, -, -, hexec⟩ := step_next h
  obtain ⟨t, ht, rfl⟩ := exec_next hexec
  obtain ⟨-, hend, -⟩ := (pcLegal_iff s).mp hlegal
  obtain ⟨hpc, hhi⟩ := ht.keepsLaunch
  exact (ht.legal hs).advance (by rwa [hpc, hhi])

/-! ## Reset and loading -/

theorem legal_reset : Legal State.reset where
  noFault := rfl
  memory := List.Pairwise.nil
  memoryInRange a p h := nomatch h
  length n h := by cases h; decide
  codeInRange := by decide
  codeWords := by decide
  codeDefined a lo hi := absurd hi (not_lt.mpr lo)
  pcInCode := by decide
  pcWords := by decide

/-- What memory reads after a word is loaded at pc. -/
theorem memPent_loadWord (s : State) (w : InstrWord) (a : Int) :
    (s.loadWord w).memPent a = if s.pc ≤ a ∧ a < s.pc + 24 then w.toList[(a - s.pc).toNat]? else s.memPent a := by
  show memLookup (writePents s.mem s.pc w.toList) a = _
  rw [memLookup_writePents, Vector.length_toList]; rfl

/-- R45, R52: loading a word at pc extends a legal program by it. -/
theorem Legal.loadWord {s : State} (hs : Legal s) (w : InstrWord) : Legal (s.loadWord w) := by
  obtain ⟨hlo, hhi⟩ := hs.pcInCode
  obtain ⟨hmlo, hmhi⟩ := hs.codeInRange
  have hwords := hs.pcWords
  have hcode := hs.codeWords
  have ecode : (s.loadWord w).codeLo = s.codeLo := if_pos ⟨hlo, hwords⟩
  have ehi : (s.loadWord w).codeHi = max s.codeHi (s.pc + 24) := rfl
  refine { hs with noFault := rfl, memory := writePents_wf _ _ _ hs.memory, memoryInRange := ?_, codeInRange := ?_,
                   codeWords := ?_, codeDefined := ?_, pcInCode := ?_, pcWords := ?_ }
  · intro a p h
    show min s.memLo s.pc ≤ a ∧ a < max s.memHi (s.pc + 24)
    rw [memPent_loadWord] at h
    split at h
    · omega
    · have := hs.memoryInRange a p h; omega
  · show min s.memLo s.pc ≤ (s.loadWord w).codeLo ∧ max s.codeHi (s.pc + 24) ≤ max s.memHi (s.pc + 24)
    omega
  · rw [ecode, ehi]; omega
  · intro a lo hi
    rw [memPent_loadWord]
    split
    · simp; omega
    · exact hs.codeDefined a (by omega) (by omega)
  · show (s.loadWord w).codeLo ≤ s.pc ∧ s.pc ≤ max s.codeHi (s.pc + 24)
    omega
  · rw [ecode]; exact hwords

/-- Settles O48: the table word is loaded at the pc of a legal state. -/
theorem resetIsLegal : Obligations.ResetIsLegal :=
  ⟨legal_reset, fun nbits w => legal_reset.loadWord (tableWord nbits w)⟩

end Sys2Proof.Machine
end

section
/-! Faults of operands that hold no value (R44, R273): the lowest undefined pent of an element, the lowest element
that cannot be read, and a scalar operand before any element. -/

namespace Sys2Proof.Machine

/-! ## Elements -/

theorem vraw_undef {s : State} {t : EType} {r : VNum} {i p : Nat} (h : FirstUndef s t r i p) :
    s.vraw r t i = .error (.undefRead (.v r (i * ew t + p))) := by
  obtain ⟨hp, hnone, hlow⟩ := h
  exact gather_error.mpr ⟨p, hp, hnone, hlow, rfl⟩

theorem ve_undef {s : State} {t : EType} {r : VNum} {i p : Nat} (h : FirstUndef s t r i p) :
    s.ve r t i = .error (.undefRead (.v r (i * ew t + p))) := by
  rw [State.ve, vraw_undef h]; rfl

/-- R273: the lowest element that raises a fault raises it for the whole write. -/
theorem writeActive_fault {t : EType} {vd : VNum} {n i : Nat} {s : State} {elem : Nat → Except Fault (Pat (ew t))}
    {e : Fault} (hi : i < n) (before : ∀ j, j < i → ∃ a, elem j = .ok a) (here : elem i = .error e) :
    writeActive t vd n s elem = .error e := by
  rw [writeActive, collect_error.mpr ⟨i, hi, here, before⟩]; rfl

/-- R44, R120: an integer operation on two registers raises the fault of the lowest element, Vs1 before Vs2. -/
theorem intBinary_undef {t : EType} {g : Int → Int → Int} {vd vs1 vs2 : VNum} {s : State} {n i p : Nat}
    {a b : Nat → Int} (hn : Active s t n) (hi : i < n) (ha : HoldsInts s t vs1 i a) (hb : HoldsInts s t vs2 i b) :
    (FirstUndef s t vs1 i p → intBinary t g vd vs1 vs2 s = .error (.undefRead (.v vs1 (i * ew t + p)))) ∧
      ∀ c, s.ve vs1 t i = .ok c → FirstUndef s t vs2 i p →
        intBinary t g vd vs1 vs2 s = .error (.undefRead (.v vs2 (i * ew t + p))) := by
  rw [intBinary, activeLen_active.mpr hn, ok_bind]
  refine ⟨fun h => ?_, fun c hc h => ?_⟩ <;>
    refine writeActive_fault hi (fun j hj => ⟨_, by rw [ha j hj, hb j hj]; rfl⟩) ?_
  · rw [ve_undef h]; rfl
  · rw [hc, ve_undef h]; rfl

/-- An instruction that is an integer operation on two registers follows `UndefBinaryRule`. -/
theorem undefBinaryRule_of_intBinary {mk : VNum → VNum → VNum → Instr} {t : EType} {g : Int → Int → Int}
    (h : ∀ vd vs1 vs2 s, exec (mk vd vs1 vs2) s = commit (intBinary t g vd vs1 vs2 s)) : UndefBinaryRule mk t := by
  intro s vd vs1 vs2 n i p a b hn hi ha hb
  simp only [h, commit_fault]
  exact intBinary_undef hn hi ha hb

/-- Settles O41: the six spellings are integer operations on two registers. -/
theorem undefinedElementFaults : Obligations.UndefinedElementFaults := by
  refine ⟨?_, ?_, ?_, ?_, ?_, ?_⟩ <;> exact undefBinaryRule_of_intBinary fun _ _ _ _ => rfl

/-! ## Scalar operands -/

theorem xraw_undef {s : State} {r : XNum} (h : s.x[r] = none) : s.xraw r = .error (.undefRead (.x r)) := by
  rw [State.xraw, h]

theorem xval_undef {s : State} {r : XNum} (h : s.x[r] = none) : s.xval r = .error (.undefRead (.x r)) := by
  rw [State.xval, xraw_undef h]; rfl

/-- R110: SETVL reads VTYPE, then its request. -/
theorem setvl_undef {s : State} {r q : XNum} {ty : EType} (h : s.x[r] = none) (ht : s.vtype = some ty) :
    exec (.setvl q r) s = .fault (.undefRead (.x r)) := by
  refine commit_fault.mpr ?_
  rw [readVType_ok.mpr ht, xval_undef h]; rfl

/-- R273: what is read right after VL faults before anything that follows it. -/
theorem commit_second_fault {α : Type} {t : EType} {s : State} {n : Nat} {second : Except Fault α} {e : Fault}
    (hn : Active s t n) (h : second = .error e) (k : Nat → α → Except Fault State) :
    commit (activeLen t s >>= fun n => second >>= k n) = .fault e := by
  rw [activeLen_active.mpr hn, h]; rfl

/-- R210: the base address is read right after VL. -/
theorem commit_baseAddr_undef {t : EType} {s : State} {r : XNum} {n : Nat} (hn : Active s t n) (h : s.x[r] = none)
    (k : Nat × Int → Except Fault State) : commit (baseAddr t r s >>= k) = .fault (.undefRead (.x r)) := by
  rw [baseAddr_bind]
  exact commit_second_fault hn (xval_undef h) fun n b => k (n, b)

/-- Settles O42: in each of the forms listed the scalar operand is read right after VL, or after VTYPE in SETVL. -/
theorem undefinedScalarFaults : Obligations.UndefinedScalarFaults := by
  intro s v w k r q h
  refine ⟨fun ⟨ty, ht⟩ => setvl_undef h ht, fun n hn => ?_⟩
  have hf : Active s .f16 n := hn
  refine ⟨?_, ?_, ?_, ?_, ?_, ?_, ?_, ?_, ?_, ?_, ?_, ?_, ?_, ?_, ?_, ?_, ?_, ?_⟩
  case refine_1 | refine_2 | refine_4 => exact commit_second_fault hn (xval_undef h) _
  case refine_3 => exact commit_second_fault hf (xraw_undef h) _
  case refine_6 | refine_8 => exact commit_baseAddr_undef hf h _
  all_goals exact commit_baseAddr_undef hn h _

end Sys2Proof.Machine
end

section
/-! Faults of unit-stride loads and stores (R55, R56, R67, R210, R273): the lowest bad address of a range, then the
lowest element whose range has one. -/

namespace Sys2Proof.Machine

/-! ## Ranges -/

/-- The converse of `lowest_some`: a bad address of the range with none below it is the lowest. -/
theorem lowest_eq_some {bad : Int → Bool} {a x : Int} {len : Nat} (hx : InRange a len x) (here : bad x = true)
    (before : ∀ c, a ≤ c → c < x → bad c = false) : lowest bad a len = some x := by
  obtain ⟨hlo, hhi⟩ := hx
  cases hq : lowest bad a len with
  | none =>
    have hfalse := lowest_none.mp hq (x - a).toNat (by omega)
    rw [show a + ((x - a).toNat : Int) = x by omega, here] at hfalse
    cases hfalse
  | some y =>
    obtain ⟨hy, hay, -, hlow⟩ := lowest_some hq
    rcases lt_trichotomy y x with h | rfl | h
    · rw [before y hay h] at hy; cases hy
    · rfl
    · rw [hlow x hlo h] at here; cases here

/-- R51: the lowest invalid address of a range. -/
theorem lowest_invalid {s : State} {a x : Int} {len : Nat} (hx : InRange a len x) (here : x < s.memLo ∨ s.memHi ≤ x)
    (before : ∀ c, a ≤ c → c < x → s.memLo ≤ c ∧ c < s.memHi) : lowest (fun b => !s.validAddr b) a len = some x := by
  refine lowest_eq_some hx ?_ fun c hc hcx => ?_
  · rw [Bool.not_eq_true', ← Bool.not_eq_true, validAddr_iff]; omega
  · rw [(validAddr_iff s c).mpr (before c hc hcx), Bool.not_true]

/-- R51: a range of valid addresses. -/
theorem lowest_invalid_none {s : State} {a : Int} {len : Nat}
    (valid : ∀ c, InRange a len c → s.memLo ≤ c ∧ c < s.memHi) : lowest (fun b => !s.validAddr b) a len = none :=
  lowest_none.mpr fun k hk => by
    rw [(validAddr_iff s _).mpr (valid (a + k) ⟨by omega, by omega⟩), Bool.not_true]

/-- R52, R67: the lowest address of the program in a range. -/
theorem lowest_inCode {s : State} {a x : Int} {len : Nat} (hx : InRange a len x) (here : s.codeLo ≤ x ∧ x < s.codeHi)
    (before : ∀ c, a ≤ c → c < x → ¬ (s.codeLo ≤ c ∧ c < s.codeHi)) : lowest s.inCode a len = some x := by
  refine lowest_eq_some hx ((inCode_iff s x).mpr here) fun c hc hcx => ?_
  rw [← Bool.not_eq_true, inCode_iff]
  exact before c hc hcx

/-! ## One element -/

theorem memReadRaw_memFault {s : State} {a x : Int} {len : Nat}
    (h : lowest (fun b => !s.validAddr b) a len = some x) : s.memReadRaw a len = .error (.memFault x) := by
  rw [State.memReadRaw, h]

/-- R55: a valid range faults at its lowest address that holds no value. -/
theorem memReadRaw_undef {s : State} {a x : Int} {len : Nat}
    (valid : lowest (fun b => !s.validAddr b) a len = none) (hx : InRange a len x) (here : s.memPent x = none)
    (before : ∀ c, a ≤ c → c < x → (s.memPent c).isSome) : s.memReadRaw a len = .error (.undefRead (.mem x)) := by
  obtain ⟨hlo, hhi⟩ := hx
  have hk : a + ((x - a).toNat : Int) = x := by omega
  rw [State.memReadRaw, valid]
  refine gather_error.mpr ⟨(x - a).toNat, by omega, ?_, fun j hj => before _ (by omega) (by omega), ?_⟩ <;> rw [hk]
  exact here

theorem storeFault_memFault {s : State} {a x : Int} {len : Nat}
    (h : lowest (fun b => !s.validAddr b) a len = some x) : s.storeFault len a = some (.memFault x) := by
  rw [State.storeFault, h]

theorem storeFault_codeWrite {s : State} {a x : Int} {len : Nat}
    (valid : lowest (fun b => !s.validAddr b) a len = none) (h : lowest s.inCode a len = some x) :
    s.storeFault len a = some (.codeWrite x) := by
  rw [State.storeFault, valid, h]; rfl

/-! ## All elements -/

theorem findSome?_range_lowest {α : Type} {n i : Nat} {f : Nat → Option α} {a : α} (hi : i < n)
    (before : ∀ j, j < i → f j = none) (here : f i = some a) : (List.range n).findSome? f = some a := by
  obtain ⟨k, rfl⟩ := Nat.exists_eq_add_of_lt hi
  have hlow : (List.range i).findSome? f = none :=
    List.findSome?_eq_none_iff.mpr fun j hj => before j (List.mem_range.mp hj)
  rw [Nat.add_assoc, List.range_add, List.findSome?_append, hlow, List.range_succ_eq_map]
  simp [here]

/-- R210, R273: once its source is read, a store raises the fault of the lowest element that has one. -/
theorem storeActive_fault {t : EType} {vs : VNum} {n i : Nat} {addr : Nat → Int} {s : State} {e : Nat → Pat (ew t)}
    {f : Fault} (source : HoldsRaw s t vs n e) (hi : i < n)
    (before : ∀ j, j < i → s.storeFault (ew t) (addr j) = none) (here : s.storeFault (ew t) (addr i) = some f) :
    storeActive t vs n addr s = .error f := by
  have hread : collect n (fun j => s.vraw vs t j >>= fun p => pure (addr j, p)) =
      .ok ((List.range n).map fun j => (addr j, e j)) :=
    collect_eq fun j hj => by rw [source j hj]; rfl
  have hfind : ((List.range n).map fun j => (addr j, e j)).findSome? (fun w => s.storeFault (ew t) w.1) = some f := by
    rw [List.findSome?_map]
    exact findSome?_range_lowest hi before here
  rw [storeActive, hread, ok_bind, State.storeElems, hfind]

/-! ## Unit stride -/

theorem baseAddr_active {t : EType} {r : XNum} {s : State} {n : Nat} {b : Int} (hn : Active s t n)
    (hb : s.xval r = .ok b) : baseAddr t r s = .ok (n, b) :=
  baseAddr_ok.mpr ⟨hn.1, hn.2, hb⟩

/-- R211: a unit-stride load raises the fault of the lowest element that cannot be read. -/
theorem loadUnit_fault {t : EType} {vd : VNum} {rs : XNum} {s : State} {n i : Nat} {b : Int} {f : Fault}
    (hn : Active s t n) (hb : s.xval rs = .ok b) (hi : i < n)
    (before : ∀ j : Nat, j < i → ∃ e, Spells s (ew t) (b + j * ew t) e)
    (here : s.memReadRaw (b + i * ew t) (ew t) = .error f) : loadUnit t vd rs s = .error f := by
  rw [loadUnit, baseAddr_active hn hb]
  exact writeActive_fault hi (fun j hj => (before j hj).imp fun _ => memReadRaw_spells.mpr) here

/-- R212: a unit-stride store raises the fault of the lowest element that may not be stored. -/
theorem storeUnit_fault {t : EType} {vs : VNum} {rd : XNum} {s : State} {n i : Nat} {b : Int} {e : Nat → Pat (ew t)}
    {f : Fault} (hn : Active s t n) (hb : s.xval rd = .ok b) (source : HoldsRaw s t vs n e) (hi : i < n)
    (before : ∀ j : Nat, j < i → Storable s (ew t) (b + j * ew t))
    (here : s.storeFault (ew t) (b + i * ew t) = some f) : storeUnit t vs rd s = .error f := by
  rw [storeUnit, baseAddr_active hn hb]
  exact storeActive_fault source hi (fun j hj => storeFault_storable.mpr (before j hj)) here

theorem unitLoadFaultRule_of_loadUnit {mk : VNum → XNum → Instr} {t : EType}
    (h : ∀ vd rs s, exec (mk vd rs) s = commit (loadUnit t vd rs s)) : UnitLoadFaultRule mk t := by
  intro s vd rs n i b x hn hb hi before hx
  simp only [h, commit_fault]
  refine ⟨fun ⟨invalid, low⟩ => ?_, fun ⟨undef, low, valid⟩ => ?_⟩ <;> refine loadUnit_fault hn hb hi before ?_
  · exact memReadRaw_memFault (lowest_invalid hx invalid low)
  · exact memReadRaw_undef (lowest_invalid_none valid) hx undef low

theorem unitStoreFaultRule_of_storeUnit {mk : VNum → XNum → Instr} {t : EType}
    (h : ∀ vs rd s, exec (mk vs rd) s = commit (storeUnit t vs rd s)) : UnitStoreFaultRule mk t := by
  intro s vs rd n i b x e hn hb source hi before hx
  simp only [h, commit_fault]
  refine ⟨fun ⟨invalid, low⟩ => ?_, fun ⟨code, low, valid⟩ => ?_⟩ <;>
    refine storeUnit_fault hn hb source hi before ?_
  · exact storeFault_memFault (lowest_invalid hx invalid low)
  · exact storeFault_codeWrite (lowest_invalid_none valid) (lowest_inCode hx code low)

/-- Settles O39: the three spellings are unit-stride loads. -/
theorem loadFaultsNameLowestAddress : Obligations.LoadFaultsNameLowestAddress := by
  refine ⟨?_, ?_, ?_⟩ <;> exact unitLoadFaultRule_of_loadUnit fun _ _ _ => rfl

/-- Settles O40: the three spellings are unit-stride stores. -/
theorem storeFaultsNameLowestAddress : Obligations.StoreFaultsNameLowestAddress := by
  refine ⟨?_, ?_, ?_⟩ <;> exact unitStoreFaultRule_of_storeUnit fun _ _ _ => rfl

end Sys2Proof.Machine
end

section
/-! The operand forms (R90, R96, R97): a form accepts exactly the fields that its operands fill, every unused field
being 0. -/

namespace Sys2Proof

open Sys2Proof.Machine

/-! ## Reading in sequence -/

theorem bind_accepts {α β : Type} {x : Except Reject α} {k : α → Except Reject β} {b : β} :
    (x >>= k) = .ok b ↔ ∃ a, x = .ok a ∧ k a = .ok b := by
  cases x with
  | error e => exact ⟨fun h => (nomatch h), fun ⟨_, h, _⟩ => (nomatch h)⟩
  | ok a => exact ⟨fun h => ⟨a, rfl, h⟩, fun ⟨_, h, rest⟩ => by cases h; exact rest⟩

theorem pure_accepts {α : Type} {a b : α} : (pure a : Except Reject α) = .ok b ↔ a = b :=
  ⟨Except.ok.inj, congrArg Except.ok⟩

theorem rejectIf_accepts {c : Prop} [Decidable c] {e : Reject} {r : Except Reject Instr} {i : Instr} :
    (if c then .error e else r) = .ok i ↔ ¬ c ∧ r = .ok i := by
  split <;> simp_all

/-! ## Operands in Extra -/

/-- R82: Extra is read as an immediate exactly where it is the string of that immediate. -/
theorem immOf_eq_iff {f : Fields} {imm : Int} : immOf f = imm ↔ immOk imm ∧ f.extra = immExtra imm := by
  constructor
  · rintro rfl
    obtain ⟨inRange, back⟩ := immOf_ok f.extra
    exact ⟨inRange, back.symm⟩
  · rintro ⟨inRange, same⟩
    rw [immOf, same, immOf_immExtra inRange]

theorem typeOfCode_tcode (t : EType) : typeOfCode (tcode t) = some t := by cases t <;> rfl

theorem typeOfCode_ok {c : Int} {t : EType} : typeOfCode c = some t ↔ c = tcode t := by
  refine ⟨fun h => ?_, fun h => h ▸ typeOfCode_tcode t⟩
  unfold typeOfCode at h
  split_ifs at h <;> cases h <;> assumption

theorem immOk_tcode (t : EType) : immOk (tcode t) = true := by cases t <;> rfl

/-! ## The forms of registers alone -/

/-- Three registers of files of any size: what the forms RRR, MRR, RGR, GRR and MMM have in common. -/
def threeRegs {b₁ b₂ b₃ : Nat} (f : Fields) (mk : Fin b₁ → Fin b₂ → Fin b₃ → Instr) : Except Reject Instr := do
  noMask f
  let d ← regNum b₁ f.vd
  let a ← regNum b₂ f.vs1
  let b ← regNum b₃ f.vs2
  noExtra f
  return mk d a b

/-- Two registers of files of any size: what the forms RR, RM and MM have in common. -/
def twoRegs {b₁ b₂ : Nat} (f : Fields) (mk : Fin b₁ → Fin b₂ → Instr) : Except Reject Instr := do
  noMask f
  let d ← regNum b₁ f.vd
  let a ← regNum b₂ f.vs1
  unused f.vs2
  noExtra f
  return mk d a

/-! The model's forms are these two at the sizes of their register files. -/

theorem formRRR_eq : formRRR = threeRegs := rfl
theorem formMRR_eq : formMRR = threeRegs := rfl
theorem formRGR_eq : formRGR = threeRegs := rfl
theorem formGRR_eq : formGRR = threeRegs := rfl
theorem formMMM_eq : formMMM = threeRegs := rfl
theorem formRR_eq : formRR = twoRegs := rfl
theorem formRM_eq : formRM = twoRegs := rfl
theorem formMM_eq : formMM = twoRegs := rfl

theorem threeRegs_ok {b₁ b₂ b₃ : Nat} {f : Fields} {mk : Fin b₁ → Fin b₂ → Fin b₃ → Instr} {i : Instr} :
    threeRegs f mk = .ok i ↔ ∃ d a b, mk d a b = i ∧
      { f with vd := d, vs1 := a, vs2 := b, vm := 0, extra := zeroExtra } = f := by
  cases f
  simp only [threeRegs, bind_accepts, pure_accepts, noMask_ok, regNum_ok, noExtra_ok, Fields.mk.injEq, true_and]
  grind

theorem twoRegs_ok {b₁ b₂ : Nat} {f : Fields} {mk : Fin b₁ → Fin b₂ → Instr} {i : Instr} :
    twoRegs f mk = .ok i ↔ ∃ d a, mk d a = i ∧
      { f with vd := d, vs1 := a, vs2 := 0, vm := 0, extra := zeroExtra } = f := by
  cases f
  simp only [twoRegs, bind_accepts, pure_accepts, noMask_ok, regNum_ok, unused_ok, noExtra_ok, Fields.mk.injEq,
    true_and]
  grind

theorem formX_ok {f : Fields} {mk : XNum → Instr} {i : Instr} :
    formX f mk = .ok i ↔ ∃ d, mk d = i ∧
      { f with vd := d, vs1 := 0, vs2 := 0, vm := 0, extra := zeroExtra } = f := by
  cases f
  simp only [formX, bind_accepts, pure_accepts, noMask_ok, regNum_ok, unused_ok, noExtra_ok, Fields.mk.injEq, true_and]
  grind

theorem formRRRR_ok {f : Fields} {mk : VNum → VNum → VNum → VNum → Instr} {i : Instr} :
    formRRRR f mk = .ok i ↔ ∃ d a b c, mk d a b c = i ∧
      { f with vd := d, vs1 := a, vs2 := b, vm := 0, extra := regExtra c } = f := by
  cases f
  simp only [formRRRR, bind_accepts, pure_accepts, noMask_ok, regNum_ok, extraReg_ok, Fields.mk.injEq, true_and]
  grind

theorem formPair_ok {f : Fields} {mk : VNum → VNum → VNum → VNum → Instr} {i : Instr} :
    formPair f mk = .ok i ↔ ∃ d₁ d₂ a b, d₁ ≠ d₂ ∧ mk d₁ d₂ a b = i ∧
      { f with vd := d₁, vs1 := a, vs2 := b, vm := 0, extra := regExtra d₂ } = f := by
  cases f
  simp only [formPair, bind_accepts, rejectIf_accepts, pure_accepts, noMask_ok, regNum_ok, extraReg_ok,
    Fields.mk.injEq, true_and]
  grind

/-! ## The forms with a predicate -/

theorem formRRRMasked_ok {f : Fields} {mk : VNum → VNum → VNum → MNum → Instr} {i : Instr} :
    formRRRMasked f mk = .ok i ↔ ∃ d a b m, mk d a b m = i ∧
      { f with vd := d, vs1 := a, vs2 := b, vm := m + 1, extra := zeroExtra } = f := by
  cases f
  simp only [formRRRMasked, bind_accepts, pure_accepts, maskOf_ok, regNum_ok, noExtra_ok, Fields.mk.injEq, true_and]
  grind

theorem formRRMasked_ok {f : Fields} {mk : VNum → VNum → MNum → Instr} {i : Instr} :
    formRRMasked f mk = .ok i ↔ ∃ d a m, mk d a m = i ∧
      { f with vd := d, vs1 := a, vs2 := 0, vm := m + 1, extra := zeroExtra } = f := by
  cases f
  simp only [formRRMasked, bind_accepts, pure_accepts, maskOf_ok, regNum_ok, unused_ok, noExtra_ok, Fields.mk.injEq,
    true_and]
  grind

/-! ## The forms with an immediate -/

theorem formXImm_ok {f : Fields} {mk : XNum → Int → Instr} {i : Instr} :
    formXImm f mk = .ok i ↔ ∃ d imm, immOk imm ∧ mk d imm = i ∧
      { f with vd := d, vs1 := 0, vs2 := 0, vm := 0, extra := immExtra imm } = f := by
  have imm := @immOf_eq_iff f
  cases f
  simp only [formXImm, bind_accepts, pure_accepts, noMask_ok, regNum_ok, unused_ok, Fields.mk.injEq, true_and]
  grind

theorem formRRImm_ok {f : Fields} {mk : VNum → VNum → Int → Instr} {i : Instr} :
    formRRImm f mk = .ok i ↔ ∃ d a imm, immOk imm ∧ mk d a imm = i ∧
      { f with vd := d, vs1 := a, vs2 := 0, vm := 0, extra := immExtra imm } = f := by
  have imm := @immOf_eq_iff f
  cases f
  simp only [formRRImm, bind_accepts, pure_accepts, noMask_ok, regNum_ok, unused_ok, Fields.mk.injEq, true_and]
  grind

theorem formType_ok {f : Fields} {mk : EType → Instr} {i : Instr} :
    formType f mk = .ok i ↔ ∃ t, mk t = i ∧
      { f with vd := 0, vs1 := 0, vs2 := 0, vm := 0, extra := immExtra (tcode t) } = f := by
  have code : ∀ t, typeOfCode (immOf f) = some t ↔ f.extra = immExtra (tcode t) := fun t => by
    rw [typeOfCode_ok, immOf_eq_iff, and_iff_right (immOk_tcode t)]
  cases f
  simp only [formType, bind_accepts, noMask_ok, unused_ok, Fields.mk.injEq, true_and]
  split
  · next t found =>
    rw [pure_accepts]
    grind
  · next found => grind

end Sys2Proof
end

section
/-! Decoding is sound (R96, R101): in every cell of the opcode map, what the decoder accepts is well-formed and has the
fields it was read from. -/

namespace Sys2Proof

open Sys2Proof.Machine

/-- Every instruction that `r` answers is well-formed and has the fields `f`. -/
def Sound (f : Fields) (r : Except Reject Instr) : Prop := ∀ i, r = .ok i → i.WF ∧ encodeFields i = f

theorem Sound.error {f : Fields} (e : Reject) : Sound f (.error e) := fun _ h => (nomatch h)

theorem Sound.ite {f : Fields} {c : Prop} [Decidable c] {r₁ r₂ : Except Reject Instr} (h₁ : Sound f r₁)
    (h₂ : Sound f r₂) : Sound f (if c then r₁ else r₂) := by
  split
  · exact h₁
  · exact h₂

theorem Sound.onlyWidth {f : Fields} {w : Nat} {r : Except Reject Instr} (h : f.width = w → Sound f r) :
    Sound f (onlyWidth w f r) := by
  unfold Sys2Proof.onlyWidth
  split
  · next e => exact h e
  · exact .error _

/-! ## The forms -/

section
variable {f : Fields} {w : Nat}

theorem Sound.threeRegs {b₁ b₂ b₃ : Nat} {mk : Fin b₁ → Fin b₂ → Fin b₃ → Instr} (cell : f.width = w)
    (enc : ∀ d a b, (mk d a b).WF ∧
      encodeFields (mk d a b) = { f with vd := d, vs1 := a, vs2 := b, vm := 0, width := w, extra := zeroExtra }) :
    Sound f (threeRegs f mk) := by
  subst cell
  intro i h
  obtain ⟨d, a, b, rfl, fields⟩ := threeRegs_ok.mp h
  exact fields ▸ enc d a b

theorem Sound.twoRegs {b₁ b₂ : Nat} {mk : Fin b₁ → Fin b₂ → Instr} (cell : f.width = w)
    (enc : ∀ d a, (mk d a).WF ∧
      encodeFields (mk d a) = { f with vd := d, vs1 := a, vs2 := 0, vm := 0, width := w, extra := zeroExtra }) :
    Sound f (twoRegs f mk) := by
  subst cell
  intro i h
  obtain ⟨d, a, rfl, fields⟩ := twoRegs_ok.mp h
  exact fields ▸ enc d a

theorem Sound.formX {mk : XNum → Instr} (cell : f.width = w)
    (enc : ∀ d, (mk d).WF ∧
      encodeFields (mk d) = { f with vd := d, vs1 := 0, vs2 := 0, vm := 0, width := w, extra := zeroExtra }) :
    Sound f (formX f mk) := by
  subst cell
  intro i h
  obtain ⟨d, rfl, fields⟩ := formX_ok.mp h
  exact fields ▸ enc d

theorem Sound.formRRRR {mk : VNum → VNum → VNum → VNum → Instr} (cell : f.width = w)
    (enc : ∀ d a b c, (mk d a b c).WF ∧
      encodeFields (mk d a b c) = { f with vd := d, vs1 := a, vs2 := b, vm := 0, width := w, extra := regExtra c }) :
    Sound f (formRRRR f mk) := by
  subst cell
  intro i h
  obtain ⟨d, a, b, c, rfl, fields⟩ := formRRRR_ok.mp h
  exact fields ▸ enc d a b c

theorem Sound.formPair {mk : VNum → VNum → VNum → VNum → Instr} (cell : f.width = w)
    (enc : ∀ d₁ d₂ a b, d₁ ≠ d₂ → (mk d₁ d₂ a b).WF ∧ encodeFields (mk d₁ d₂ a b) =
      { f with vd := d₁, vs1 := a, vs2 := b, vm := 0, width := w, extra := regExtra d₂ }) :
    Sound f (formPair f mk) := by
  subst cell
  intro i h
  obtain ⟨d₁, d₂, a, b, different, rfl, fields⟩ := formPair_ok.mp h
  exact fields ▸ enc d₁ d₂ a b different

theorem Sound.formRRRMasked {mk : VNum → VNum → VNum → MNum → Instr} (cell : f.width = w)
    (enc : ∀ d a b m, (mk d a b m).WF ∧
      encodeFields (mk d a b m) = { f with vd := d, vs1 := a, vs2 := b, vm := m + 1, width := w, extra := zeroExtra }) :
    Sound f (formRRRMasked f mk) := by
  subst cell
  intro i h
  obtain ⟨d, a, b, m, rfl, fields⟩ := formRRRMasked_ok.mp h
  exact fields ▸ enc d a b m

theorem Sound.formRRMasked {mk : VNum → VNum → MNum → Instr} (cell : f.width = w)
    (enc : ∀ d a m, (mk d a m).WF ∧
      encodeFields (mk d a m) = { f with vd := d, vs1 := a, vs2 := 0, vm := m + 1, width := w, extra := zeroExtra }) :
    Sound f (formRRMasked f mk) := by
  subst cell
  intro i h
  obtain ⟨d, a, m, rfl, fields⟩ := formRRMasked_ok.mp h
  exact fields ▸ enc d a m

theorem Sound.formXImm {mk : XNum → Int → Instr} (cell : f.width = w)
    (enc : ∀ d imm, immOk imm → (mk d imm).WF ∧
      encodeFields (mk d imm) = { f with vd := d, vs1 := 0, vs2 := 0, vm := 0, width := w, extra := immExtra imm }) :
    Sound f (formXImm f mk) := by
  subst cell
  intro i h
  obtain ⟨d, imm, inRange, rfl, fields⟩ := formXImm_ok.mp h
  exact fields ▸ enc d imm inRange

theorem Sound.formRRImm {mk : VNum → VNum → Int → Instr} (cell : f.width = w)
    (enc : ∀ d a imm, immOk imm → (mk d a imm).WF ∧
      encodeFields (mk d a imm) = { f with vd := d, vs1 := a, vs2 := 0, vm := 0, width := w, extra := immExtra imm }) :
    Sound f (formRRImm f mk) := by
  subst cell
  intro i h
  obtain ⟨d, a, imm, inRange, rfl, fields⟩ := formRRImm_ok.mp h
  exact fields ▸ enc d a imm inRange

theorem Sound.formType {mk : EType → Instr} (cell : f.width = w)
    (enc : ∀ t, (mk t).WF ∧
      encodeFields (mk t) = { f with vd := 0, vs1 := 0, vs2 := 0, vm := 0, width := w, extra := immExtra (tcode t) }) :
    Sound f (formType f mk) := by
  subst cell
  intro i h
  obtain ⟨t, rfl, fields⟩ := formType_ok.mp h
  exact fields ▸ enc t

end

/-! ## The opcode map -/

/-- The decoder of one VOP is sound, cell by cell of Width and Func. -/
abbrev SoundVop (v : Nat) (dec : Fields → Except Reject Instr) : Prop :=
  ∀ {vd vs1 vs2 vm extra} (width func),
    Sound ⟨v, vd, vs1, vs2, vm, width, func, extra⟩ (dec ⟨v, vd, vs1, vs2, vm, width, func, extra⟩)

theorem decodeVop1_sound : SoundVop 1 decodeVop1 := fun
  | _, 0 => .onlyWidth fun w => .twoRegs w fun _ _ => ⟨rfl, rfl⟩
  | _, 1 => .onlyWidth fun w => .formXImm w fun _ _ h => ⟨h, rfl⟩
  | _, 2 => .onlyWidth fun w => .formType w fun _ => ⟨rfl, rfl⟩
  | _, 3 => .onlyWidth fun w => .formX w fun _ => ⟨rfl, rfl⟩
  | _, _ + 4 => .error _

theorem decodeVop2_sound : SoundVop 2 decodeVop2 := fun
  | 0, 0 | 2, 0 | 1, 1 | 2, 1 => .threeRegs rfl fun _ _ _ => ⟨rfl, rfl⟩
  | 1, 0 => .ite (.threeRegs rfl fun _ _ _ => ⟨rfl, rfl⟩) (.formRRRMasked rfl fun _ _ _ _ => ⟨rfl, rfl⟩)
  | _, 2 => .onlyWidth fun w => .twoRegs w fun _ _ => ⟨rfl, rfl⟩
  | _, 3 => .onlyWidth fun w => .threeRegs w fun _ _ _ => ⟨rfl, rfl⟩
  | _, 4 => .onlyWidth fun w => .formPair w fun _ _ _ _ h => ⟨decide_eq_true h, rfl⟩
  | _ + 3, 0 | 0, 1 | _ + 3, 1 | _, _ + 5 => .error _

theorem decodeVop3_sound : SoundVop 3 decodeVop3 := fun
  | _, 0 | _, 1 => .onlyWidth fun w => .threeRegs w fun _ _ _ => ⟨rfl, rfl⟩
  | _, _ + 2 => .error _

theorem decodeVop4_sound : SoundVop 4 decodeVop4 := fun
  | _, 0 | _, 2 => .onlyWidth fun w => .threeRegs w fun _ _ _ => ⟨rfl, rfl⟩
  | _, 1 | _, 3 => .onlyWidth fun w => .formRRImm w fun _ _ _ h => ⟨h, rfl⟩
  | _, _ + 4 => .error _

theorem decodeVop5_sound : SoundVop 5 decodeVop5 := fun
  | _, 0 | _, 1 | _, 2 => .onlyWidth fun w => .twoRegs w fun _ _ => ⟨rfl, rfl⟩
  | _, 3 => .onlyWidth fun w => .threeRegs w fun _ _ _ => ⟨rfl, rfl⟩
  | _, _ + 4 => .error _

theorem decodeVop6_sound : SoundVop 6 decodeVop6 := fun
  | _, 0 | _, 1 | _, 2 | _, 3 | _, 4 => .onlyWidth fun w => .threeRegs w fun _ _ _ => ⟨rfl, rfl⟩
  | _, _ + 5 => .error _

theorem decodeVop7_sound : SoundVop 7 decodeVop7 := fun
  | _, 0 => .onlyWidth fun w => .threeRegs w fun _ _ _ => ⟨rfl, rfl⟩
  | _, _ + 1 => .error _

theorem decodeVop8_sound : SoundVop 8 decodeVop8 := fun
  | 1, 0 | 2, 0 | 1, 1 | 2, 1 | 1, 2 | 2, 2 | 1, 3 | 2, 3 => .threeRegs rfl fun _ _ _ => ⟨rfl, rfl⟩
  | _, 4 => .onlyWidth fun w => .threeRegs w fun _ _ _ => ⟨rfl, rfl⟩
  | 0, 0 | _ + 3, 0 | 0, 1 | _ + 3, 1 | 0, 2 | _ + 3, 2 | 0, 3 | _ + 3, 3 | _, _ + 5 => .error _

theorem decodeVop9_sound : SoundVop 9 decodeVop9 := fun
  | _, 0 | _, 1 | _, 2 => .onlyWidth fun w => .formRRRR w fun _ _ _ _ => ⟨rfl, rfl⟩
  | _, _ + 3 => .error _

theorem decodeVop10_sound : SoundVop 10 decodeVop10 := fun
  | _, 0 | _, 1 | _, 2 => .onlyWidth fun w => .twoRegs w fun _ _ => ⟨rfl, rfl⟩
  | _, 3 | _, 4 => .onlyWidth fun w => .threeRegs w fun _ _ _ => ⟨rfl, rfl⟩
  | _, _ + 5 => .error _

theorem decodeVop11_sound : SoundVop 11 decodeVop11 := fun
  | _, 0 | _, 1 => .onlyWidth fun w => .twoRegs w fun _ _ => ⟨rfl, rfl⟩
  | _, _ + 2 => .error _

theorem decodeVop12_sound : SoundVop 12 decodeVop12 := fun
  | _, 0 | _, 1 | _, 3 | _, 4 => .onlyWidth fun w => .twoRegs w fun _ _ => ⟨rfl, rfl⟩
  | _, 2 => .onlyWidth fun w => .formRRImm w fun _ _ _ h => ⟨h, rfl⟩
  | _, _ + 5 => .error _

theorem decodeVop13_sound : SoundVop 13 decodeVop13 := fun
  | _, 0 | _, 1 => .onlyWidth fun w => .twoRegs w fun _ _ => ⟨rfl, rfl⟩
  | _, _ + 2 => .error _

theorem decodeVop14_sound : SoundVop 14 decodeVop14 := fun
  | _, 0 | _, 1 | _, 2 => .onlyWidth fun w => .formRRImm w fun _ _ _ h => ⟨h, rfl⟩
  | _, _ + 3 => .error _

theorem decodeVop15_sound : SoundVop 15 decodeVop15 := fun
  | _, 0 | _, 1 | _, 2 => .onlyWidth fun w => .twoRegs w fun _ _ => ⟨rfl, rfl⟩
  | _, _ + 3 => .error _

theorem decodeVop16_sound : SoundVop 16 decodeVop16 := fun
  | _, 0 | _, 1 => .onlyWidth fun w => .threeRegs w fun _ _ _ => ⟨rfl, rfl⟩
  | _, 2 => .onlyWidth fun w => .formRRImm w fun _ _ _ h => ⟨h, rfl⟩
  | _, _ + 3 => .error _

theorem decodeVop17_sound : SoundVop 17 decodeVop17 := fun
  | 1, 0 | 1, 2 => .ite (.twoRegs rfl fun _ _ => ⟨rfl, rfl⟩) (.formRRMasked rfl fun _ _ _ => ⟨rfl, rfl⟩)
  | 2, 0 | 2, 2 => .twoRegs rfl fun _ _ => ⟨rfl, rfl⟩
  | _, 1 | _, 3 => .onlyWidth fun w => .twoRegs w fun _ _ => ⟨rfl, rfl⟩
  | 0, 0 | _ + 3, 0 | 0, 2 | _ + 3, 2 | _, _ + 4 => .error _

theorem decodeVop18_sound : SoundVop 18 decodeVop18 := fun
  | _, 0 | _, 1 | _, 2 | _, 3 => .onlyWidth fun w => .threeRegs w fun _ _ _ => ⟨rfl, rfl⟩
  | _, _ + 4 => .error _

theorem decodeVop19_sound : SoundVop 19 decodeVop19 := fun
  | _, 0 | _, 1 | _, 2 | _, 3 => .onlyWidth fun w => .twoRegs w fun _ _ => ⟨rfl, rfl⟩
  | _, _ + 4 => .error _

theorem decodeVop20_sound : SoundVop 20 decodeVop20 := fun
  | _, 0 | _, 1 => .onlyWidth fun w => .twoRegs w fun _ _ => ⟨rfl, rfl⟩
  | _, 2 | _, 3 | _, 4 => .onlyWidth fun w => .threeRegs w fun _ _ _ => ⟨rfl, rfl⟩
  | _, _ + 5 => .error _

theorem decodeVop21_sound : SoundVop 21 decodeVop21 := fun
  | _, 0 => .onlyWidth fun w => .twoRegs w fun _ _ => ⟨rfl, rfl⟩
  | _, _ + 1 => .error _

theorem decodeVop22_sound : SoundVop 22 decodeVop22 := fun
  | _, 0 => .onlyWidth fun w => .threeRegs w fun _ _ _ => ⟨rfl, rfl⟩
  | _, 1 => .onlyWidth fun w => .twoRegs w fun _ _ => ⟨rfl, rfl⟩
  | _, 2 => .onlyWidth fun w => .formRRImm w fun _ _ _ h => ⟨h, rfl⟩
  | _, 3 | _, 4 => .onlyWidth fun w => .formPair w fun _ _ _ _ h => ⟨decide_eq_true h, rfl⟩
  | _, _ + 5 => .error _

theorem decodeVop23_sound : SoundVop 23 decodeVop23 := fun
  | _, 0 => .onlyWidth fun w => .twoRegs w fun _ _ => ⟨rfl, rfl⟩
  | _, 1 | _, 2 => .onlyWidth fun w => .formRRImm w fun _ _ _ h => ⟨h, rfl⟩
  | _, _ + 3 => .error _

theorem decodeFields_sound : ∀ f, Sound f (decodeFields f)
  | { vop := 0, .. } => .error _
  | { vop := 1, .. } => decodeVop1_sound _ _
  | { vop := 2, .. } => decodeVop2_sound _ _
  | { vop := 3, .. } => decodeVop3_sound _ _
  | { vop := 4, .. } => decodeVop4_sound _ _
  | { vop := 5, .. } => decodeVop5_sound _ _
  | { vop := 6, .. } => decodeVop6_sound _ _
  | { vop := 7, .. } => decodeVop7_sound _ _
  | { vop := 8, .. } => decodeVop8_sound _ _
  | { vop := 9, .. } => decodeVop9_sound _ _
  | { vop := 10, .. } => decodeVop10_sound _ _
  | { vop := 11, .. } => decodeVop11_sound _ _
  | { vop := 12, .. } => decodeVop12_sound _ _
  | { vop := 13, .. } => decodeVop13_sound _ _
  | { vop := 14, .. } => decodeVop14_sound _ _
  | { vop := 15, .. } => decodeVop15_sound _ _
  | { vop := 16, .. } => decodeVop16_sound _ _
  | { vop := 17, .. } => decodeVop17_sound _ _
  | { vop := 18, .. } => decodeVop18_sound _ _
  | { vop := 19, .. } => decodeVop19_sound _ _
  | { vop := 20, .. } => decodeVop20_sound _ _
  | { vop := 21, .. } => decodeVop21_sound _ _
  | { vop := 22, .. } => decodeVop22_sound _ _
  | { vop := 23, .. } => decodeVop23_sound _ _
  | { vop := _ + 24, .. } => .error _

end Sys2Proof
end

section
/-! The round trip (R80 to R101): the decoder and the encoder undo each other. -/

namespace Sys2Proof

/-- R90: every instruction is accepted by the form of its row, an immediate because it is in range and a pair because
its destinations differ. -/
theorem decodeFields_encodeFields (i : Instr) (wf : i.WF) : decodeFields (encodeFields i) = .ok i := by
  cases i with
  | setvl | vnegP16 | vredsumP16 | vredmaxP16 | vredminP16 | vfsqrtF16 | vfrcpF16 | vfrsqrtF16 | vfabsF16 | vfnegF16
    | vreluP16 | vreluF16 | vsigmoidF16 | vtanhF16 | vexpF16 | vredsumF16 | vmaxpool2P16 | vavgpool2P16
    | vgavgpoolP16 | vldP16 | vldP28 | vldF16 | vstP16 | vstP28 | vstF16 | vlseg2P16 | vlseg3P16 | vlseg4P16
    | vsseg2P16 | vmpopc | vmffs | vmnot | vrevP16 | vbroadcastP16 => exact twoRegs_ok.mpr ⟨_, _, rfl, rfl⟩
  | setvli => exact formXImm_ok.mpr ⟨_, _, wf, rfl, rfl⟩
  | vsettype => exact formType_ok.mpr ⟨_, rfl, rfl⟩
  | vgetcfg => exact formX_ok.mpr ⟨_, rfl, rfl⟩
  | vaddP14 | vaddP16 | vaddP28 | vsubP16 | vsubP28 | vmulP16 | vdivP16 | vmodP16 | vaddVxP16 | vmulVxP16 | vdotP16
    | vmseqP16 | vmsneP16 | vmsltP16 | vmsleP16 | vmsgtP16 | vmsgeP16 | vfaddF16 | vfaddF28 | vfsubF16 | vfsubF28
    | vfmulF16 | vfmulF28 | vfdivF16 | vfdivF28 | vfdivVxF16 | vfminF16 | vfmaxF16 | vmatvecP16 | vouterP16
    | vldsP16 | vstsP16 | vldiP16 | vstiP16 | vmand | vmor | vmxor | vpermP16 =>
    exact threeRegs_ok.mpr ⟨_, _, _, rfl, rfl⟩
  | vaddP16M => exact formRRRMasked_ok.mpr ⟨_, _, _, _, rfl, rfl⟩
  | vwmulP16 | vzipP16 | vunzipP16 => exact formPair_ok.mpr ⟨_, _, _, _, of_decide_eq_true wf, rfl, rfl⟩
  | vaddViP16 | vmulViP16 | vlreluP16 | vquant5P16 | vdequant5F16 | vquant25P16 | vmmcrossP16 | vrotP16
    | vextractP16 | vinsertP16 => exact formRRImm_ok.mpr ⟨_, _, _, wf, rfl, rfl⟩
  | vfmaddF16 | vfmsubF16 | vfnmaddF16 => exact formRRRR_ok.mpr ⟨_, _, _, _, rfl, rfl⟩
  | vldP16M | vstP16M => exact formRRMasked_ok.mpr ⟨_, _, _, rfl, rfl⟩

/-- Settles O53: the fields of the word are those that were encoded, and their form accepts them. -/
theorem decodeOfEncode : Obligations.DecodeOfEncode := by
  intro i wf
  rw [decode, encode, ofWord_toWord _ (encodeFields_inRange i)]
  exact decodeFields_encodeFields i wf

/-- Settles O54: the accepted fields are those of the instruction, and a word is the word of its fields. -/
theorem encodeOfDecode : Obligations.EncodeOfDecode := by
  intro w i accepted
  obtain ⟨wf, fields⟩ := decodeFields_sound _ i accepted
  exact ⟨wf, by rw [encode, fields, toWord_ofWord]⟩

theorem decode_of_eq_encode {w : InstrWord} {i : Instr} (wf : i.WF) (word : w = encode i) : decode w = .ok i :=
  word ▸ decodeOfEncode i wf

/-- Settles O55: each printed word is the encoding of the instruction printed beside it. -/
theorem printedWordsDecode : Obligations.PrintedWordsDecode := by
  refine ⟨?_, ?_, ?_, ?_, ?_, ?_, ?_⟩
  all_goals exact decode_of_eq_encode (by decide) (by decide)

end Sys2Proof
end

section
/-! The F16 spellings of the unit-stride moves (R102): F16 elements have the width and the number per register of P16
elements, and a move looks at the element type for nothing else. -/

namespace Sys2Proof.Machine

theorem newPent_f16 (val : Nat → Option (Pat 16)) (p : Nat) : newPent .f16 val p = newPent .p16 val p := by
  unfold newPent
  cases val (p / 16) <;> rfl

theorem putElems_f16 (s : State) (vd : VNum) (val : Nat → Option (Pat 16)) :
    s.putElems vd .f16 val = s.putElems vd .p16 val := by
  simp only [State.putElems, newPent_f16]

theorem loadUnit_f16 (vd : VNum) (base : XNum) (s : State) : loadUnit .f16 vd base s = loadUnit .p16 vd base s := by
  unfold loadUnit loadActive writeActive
  simp only [putElems_f16]
  rfl

theorem storeUnit_f16 (vs : VNum) (base : XNum) (s : State) : storeUnit .f16 vs base s = storeUnit .p16 vs base s := rfl

/-- Settles O24: the load and the store do not tell the two element types apart. -/
theorem floatMovesAreIntegerMoves : Obligations.FloatMovesAreIntegerMoves := fun s v r =>
  ⟨congrArg commit (loadUnit_f16 v r s), congrArg commit (storeUnit_f16 v r s)⟩

end Sys2Proof.Machine
end

section
/-! Reserved encodings in the running machine (R96, R271). -/

namespace Sys2Proof.Machine

/-- Settles O44: the word is fetched, and the decoder rejects it. -/
theorem reservedWordFaults : Obligations.ReservedWordFaults := by
  intro s w r running above below aligned spelled reserved
  have legal : s.pcLegal = true := (pcLegal_iff s).mpr ⟨above, below, aligned⟩
  rw [step_running running, runNext_fetched legal (fetch_ok.mpr spelled), runWord_reserved reserved]

end Sys2Proof.Machine
end

section
/-! The configuration instructions (R110 to R113): each but VSETTYPE reads VTYPE first; SETVL and SETVLI then set
the length they were asked for, which fits both VL and a scalar register. -/

namespace Sys2Proof.Machine

/-! ## Reading VTYPE first -/

theorem readVType_undef {s : State} (h : s.vtype = none) : s.readVType = .error (.undefRead .vtype) := by
  rw [State.readVType, h]

/-- R44: an instruction that reads VTYPE first faults where VTYPE holds no value, whatever it does next. -/
theorem commit_readVType_undef {s : State} (h : s.vtype = none) (k : EType → Except Fault State) :
    commit (s.readVType >>= k) = .fault (.undefRead .vtype) := by
  rw [readVType_undef h]; rfl

theorem commit_readVType {s : State} {ty : EType} (h : s.vtype = some ty) (k : EType → Except Fault State) :
    commit (s.readVType >>= k) = commit (k ty) := by
  rw [readVType_ok.mpr h]; rfl

/-- Settles O3: each of the three instructions reads VTYPE first. -/
theorem undefinedTypeFaults : Obligations.UndefinedTypeFaults := fun _ _ _ _ h =>
  ⟨commit_readVType_undef h _, commit_readVType_undef h _, commit_readVType_undef h _⟩

/-! ## The element type -/

theorem wrap_tcode (ty : EType) : wrap 16 (tcode ty) = tcode ty := by
  cases ty <;> decide

theorem exec_vsettype (t : EType) (s : State) : exec (.vsettype t) s = .next (s.setType (some t)).advance := rfl

theorem exec_vgetcfg {s : State} {ty : EType} (rd : XNum) (h : s.vtype = some ty) :
    exec (.vgetcfg rd) s = .next (s.putX rd (tcode ty)).advance :=
  commit_readVType h _

/-- Settles O2: VSETTYPE is `setType`; VGETCFG writes the type code, which no wrapping changes. -/
theorem typeSetAndRead : Obligations.TypeSetAndRead := by
  refine ⟨fun s t => ⟨_, exec_vsettype t s, rfl, fun _ => rfl, rfl⟩, fun s rd ty h => ?_⟩
  obtain ⟨code, frame⟩ := scalarResult_putX s rd (tcode ty)
  exact ⟨_, exec_vgetcfg rd h, by rw [code, wrap_tcode], frame⟩

/-! ## The vector length -/

/-- R110, R111: `u` is `s` with Rd and VL set to `t`, and pc advanced. -/
def LengthResult (s u : State) (rd : XNum) (t : Int) : Prop :=
  u.vl = some t.toNat ∧ u.xval rd = .ok t ∧ (∀ r, r ≠ rd → u.xraw r = s.xraw r) ∧
    (∀ a, u.memPent a = s.memPent a) ∧ u = { s with x := u.x, vl := u.vl, pc := s.pc + 24 }

theorem vlmax_bounds (ty : EType) : 1 ≤ vlmax ty ∧ vlmax ty ≤ 18 := by
  cases ty <;> decide

/-- R39: a length is far inside the range of a scalar register. -/
theorem wrap_length {t : Int} (lo : 1 ≤ t) (hi : t ≤ 18) : wrap 16 t = t := by
  have hhalf : (18 : Int) ≤ half 16 := by decide
  exact wrap_of_range 16 t (by omega) (by omega)

theorem lengthResult_putX (s : State) (rd : XNum) {t : Int} (lo : 1 ≤ t) (hi : t ≤ 18) :
    LengthResult s (State.advance { s.putX rd t with vl := some t.toNat }) rd t := by
  refine ⟨rfl, ?_, fun r hr => ?_, fun _ => rfl, rfl⟩
  · show (s.putX rd t).xval rd = .ok t
    rw [xval_putX, if_pos rfl, wrap_length lo hi]
  · show (s.putX rd t).xraw r = s.xraw r
    rw [State.putX, xraw_setX, if_neg hr]

/-- R31, R110: a request of at least 1 sets a length from 1 to VLMAX. -/
theorem commit_setLength_next {c : Int} (hc : 1 ≤ c) (rd : XNum) (ty : EType) (s : State) :
    ∃ u, commit (setLength rd ty c s) = .next u ∧ LengthResult s u rd (min c (vlmax ty)) := by
  obtain ⟨lo, hi⟩ := vlmax_bounds ty
  exact ⟨_, commit_next.mpr ⟨_, setLength_ok.mpr ⟨hc, rfl⟩, rfl⟩, lengthResult_putX s rd (by omega) (by omega)⟩

theorem commit_setLength_fault {c : Int} (hc : c < 1) (rd : XNum) (ty : EType) (s : State) :
    commit (setLength rd ty c s) = .fault (.vlRange c) :=
  commit_fault.mpr (setLength_error.mpr ⟨hc, rfl⟩)

theorem exec_setvl {s : State} {rs : XNum} {ty : EType} {c : Int} (rd : XNum) (hty : s.vtype = some ty)
    (hc : s.xval rs = .ok c) : exec (.setvl rd rs) s = commit (setLength rd ty c s) := by
  refine (commit_readVType hty _).trans ?_
  rw [hc]; rfl

theorem exec_setvli {s : State} {ty : EType} (rd : XNum) (imm : Int) (hty : s.vtype = some ty) :
    exec (.setvli rd imm) s = commit (setLength rd ty imm s) :=
  commit_readVType hty _

/-- Settles O1: both instructions are `setLength` on their request, which answers exactly when that is at least 1. -/
theorem setLengthResults : Obligations.SetLengthResults := by
  intro s rd rs imm c ty hty
  rw [exec_setvli rd imm hty]
  refine ⟨fun hc pos => ?_, fun hc low => ?_, fun pos => ?_, fun low => ?_⟩
  · rw [exec_setvl rd hty hc]
    exact commit_setLength_next pos rd ty s
  · rw [exec_setvl rd hty hc]
    exact commit_setLength_fault low rd ty s
  · exact commit_setLength_next pos rd ty s
  · exact commit_setLength_fault low rd ty s

end Sys2Proof.Machine
end

section
/-! Truncating division (R127): `imod` is `Int.tmod`, so its size and its sign are those of the library's remainder. -/

namespace Sys2Proof.Machine

theorem imod_eq_tmod (a b : Int) : imod a b = a.tmod b := (Int.tmod_def a b).symm

theorem abs_imod_lt (a : Int) {b : Int} (hb : b ≠ 0) : |imod a b| < |b| := by
  rw [imod_eq_tmod, Int.abs_eq_natAbs, Int.abs_eq_natAbs, Int.natAbs_tmod]
  exact_mod_cast Nat.mod_lt _ (Int.natAbs_pos.mpr hb)

theorem abs_imod_le (a b : Int) : |imod a b| ≤ |a| := by
  rw [imod_eq_tmod, Int.abs_eq_natAbs, Int.abs_eq_natAbs, Int.natAbs_tmod]
  exact_mod_cast Nat.mod_le _ _

/-- The remainder is zero where the divisor divides, and otherwise has the sign of the dividend. -/
theorem imod_eq_zero_or_sign (a b : Int) : imod a b = 0 ∨ (imod a b).sign = a.sign := by
  rw [imod_eq_tmod, Int.sign_tmod]
  by_cases h : b ∣ a
  · exact .inl (Int.tmod_eq_zero_of_dvd h)
  · exact .inr (if_neg h)

theorem abs_mul_idiv_le (a b : Int) : |b * idiv a b| ≤ |a| := by
  rw [idiv, Int.abs_eq_natAbs, Int.abs_eq_natAbs, Int.natAbs_mul, Int.natAbs_tdiv]
  exact_mod_cast Nat.mul_div_le _ _

theorem abs_idiv_le (a b : Int) : |idiv a b| ≤ |a| := by
  rw [idiv, Int.abs_eq_natAbs, Int.abs_eq_natAbs]
  exact_mod_cast Int.natAbs_tdiv_le_natAbs a b

/-- Settles O57: `imod` is defined from `idiv`; the rest are the lemmas above. -/
theorem divisionTruncates : Obligations.DivisionTruncates := fun a b hb =>
  ⟨rfl, abs_imod_lt a hb, imod_eq_zero_or_sign a b, abs_mul_idiv_le a b, abs_idiv_le a b⟩

end Sys2Proof.Machine
end

section
/-! The size of integer results (R13, R126): what an element holds fits the element width, so a result no larger than
an element is not changed by wrapping; a mean of elements is such a result, and so is the high half of a product. -/

namespace Sys2Proof.Machine

theorem wrap_of_abs_le {n : Nat} {x : Int} (h : |x| ≤ half n) : wrap n x = x :=
  wrap_of_range n x (abs_le.mp h).1 (abs_le.mp h).2

theorem HoldsInts.abs_bound {s : State} {t : EType} {r : VNum} {n : Nat} {a : Nat → Int}
    (h : HoldsInts s t r n a) {i : Nat} (hi : i < n) : |a i| ≤ half (ew t) := by
  obtain ⟨p, -, hp⟩ := ve_ok.mp (h i hi)
  rw [← hp]
  exact abs_le.mpr (ival_bounds p)

theorem abs_sum_le {c : Int} (l : List Int) (h : ∀ x ∈ l, |x| ≤ c) : |l.sum| ≤ l.length * c := by
  induction l with
  | nil => simp
  | cons x l ih =>
    obtain ⟨hx, hl⟩ := List.forall_mem_cons.mp h
    calc |(x :: l).sum| ≤ |x| + |l.sum| := by rw [List.sum_cons]; exact abs_add_le x l.sum
      _ ≤ c + l.length * c := add_le_add hx (ih hl)
      _ = (x :: l).length * c := by rw [List.length_cons]; push_cast; ring

/-- R195: truncating the mean takes it no further from zero than the numbers are. -/
theorem abs_mean_le {n : Nat} {a : Nat → Int} {c : Int} (pos : 1 ≤ n) (h : ∀ i, i < n → |a i| ≤ c) :
    |idiv ((List.range n).map a).sum n| ≤ c := by
  have hsum : |((List.range n).map a).sum| ≤ n * c := by
    simpa using abs_sum_le ((List.range n).map a) (by simpa using h)
  have hmul := abs_mul_idiv_le ((List.range n).map a).sum n
  rw [abs_mul, Nat.abs_cast] at hmul
  exact le_of_mul_le_mul_left (hmul.trans hsum) (by exact_mod_cast pos)

/-- R125: what is left of `p` above its low `n` pents. -/
def highPart (n : Nat) (p : Int) : Int := (p - wrap n p) / 5 ^ n

theorem highPart_mul_add_wrap (n : Nat) (p : Int) : highPart n p * 5 ^ n + wrap n p = p := by
  rw [highPart, Int.ediv_mul_cancel (wrap_dvd n p), sub_add_cancel]

/-- R125: the high part of a product of two `n`-pent integers has `n` pents. -/
theorem abs_highPart_mul_le {n : Nat} {a b : Int} (ha : |a| ≤ half n) (hb : |b| ≤ half n) :
    |highPart n (a * b)| ≤ half n := by
  have hprod : |a * b| ≤ half n * half n := by
    rw [abs_mul]
    exact mul_le_mul ha hb (abs_nonneg b) (half_nonneg n)
  have hlow : |wrap n (a * b)| ≤ half n := abs_le.mpr (wrap_bounds n (a * b))
  have hpow : (0 : Int) < 5 ^ n := by positivity
  have hscaled : |highPart n (a * b)| * 5 ^ n ≤ half n * 5 ^ n := by
    calc |highPart n (a * b)| * 5 ^ n = |highPart n (a * b) * 5 ^ n| := by rw [abs_mul, abs_of_pos hpow]
      _ = |a * b - wrap n (a * b)| := by rw [eq_sub_of_add_eq (highPart_mul_add_wrap n (a * b))]
      _ ≤ |a * b| + |wrap n (a * b)| := abs_sub _ _
      _ ≤ half n * half n + half n := add_le_add hprod hlow
      _ ≤ half n * 5 ^ n := by rw [five_pow_eq_half n]; nlinarith [half_nonneg n]
  exact le_of_mul_le_mul_right hscaled hpow

end Sys2Proof.Machine
end

section
/-! Reads of whole registers of elements, and writes to two registers (R28, R29): what the integer and the other
element instructions share. -/

namespace Sys2Proof.Machine

theorem collect_binary {α : Type} {s : State} {t : EType} {vs1 vs2 : VNum} {n : Nat} {a b : Nat → Int}
    (ha : HoldsInts s t vs1 n a) (hb : HoldsInts s t vs2 n b) (f : Int → Int → α) :
    (collect n fun i => s.ve vs1 t i >>= fun x => s.ve vs2 t i >>= fun y => pure (f x y)) =
      .ok ((List.range n).map fun i => f (a i) (b i)) :=
  collect_eq fun i hi => by rw [ha i hi, hb i hi]; rfl

theorem map_getElem?_map_range {α β : Type} (n : Nat) (g : Nat → α) (f : α → β) :
    (fun i => (((List.range n).map g)[i]?).map f) = below n fun i => f (g i) := by
  simp only [← List.getElem?_map, List.map_map]
  exact getElem?_map_range n (f ∘ g)

theorem below_outside {α : Type} {n i : Nat} (g : Nat → α) (h : ¬ i < n) : below n g i = none :=
  below_ge g (Nat.le_of_not_lt h)

/-- An active element reads back as written. -/
theorem ve_putElems_below (s : State) {t : EType} (vd : VNum) {n i : Nat} (g : Nat → Pat (ew t)) (hn : n ≤ epr t)
    (hi : i < n) : (s.putElems vd t (below n g)).ve vd t i = .ok (ival (g i)) :=
  ve_putElems_written s vd t _ i _ (hi.trans_le hn) (below_lt g hi)

/-- A write to one register leaves the elements of the others. -/
theorem ve_putElems_other (s : State) {n m : VNum} (t : EType) (val : Nat → Option (Pat (ew t))) (i : Nat) (h : m ≠ n) :
    (s.putElems n t val).ve m t i = s.ve m t i := by
  have hpent : (s.putElems n t val).vpent m = s.vpent m :=
    funext fun p => vpent_putElems_kept s n m t val p (.inl h)
  rw [State.ve, State.vraw, hpent]; rfl

theorem onlyElements_putElems_pair (s : State) (t : EType) (vd1 vd2 : VNum) (val1 val2 : Nat → Option (Pat (ew t)))
    (w : Nat → Prop) (h1 : ∀ i, ¬ w i → val1 i = none) (h2 : ∀ i, ¬ w i → val2 i = none) :
    OnlyElements s ((s.putElems vd1 t val1).putElems vd2 t val2).advance t (fun m => m = vd1 ∨ m = vd2) w where
  vectors m p hp := by
    have outside {vd : VNum} {val : Nat → Option (Pat (ew t))} (hv : ∀ i, ¬ w i → val i = none)
        (hm : ¬ (m = vd1 ∨ m = vd2) → m ≠ vd) : m ≠ vd ∨ epr t * ew t ≤ p ∨ val (p / ew t) = none :=
      hp.imp hm (Or.imp (Nat.le_div_iff_mul_le (ew_pos t)).mp (hv _))
    rw [State.advance_vpent, vpent_putElems_kept _ _ _ _ _ _ (outside h2 fun hm e => hm (.inr e)),
      vpent_putElems_kept _ _ _ _ _ _ (outside h1 fun hm e => hm (.inl e))]
  memory _ := rfl
  rest := rfl

end Sys2Proof.Machine
end

section
/-! The vector integer instructions (41_integer.md), with VRELU, VLRELU and VGAVGPOOL (43_neural.md): each follows from
the rule of its operand shape, and an instruction has a shape by unfolding `exec`. -/

namespace Sys2Proof.Machine

/-! ## Element by element -/

/-- R126: an instruction that is an integer operation on one register. -/
theorem intUnaryRule_of_intUnary {mk : VNum → VNum → Instr} {t : EType} {g : Int → Int}
    (h : ∀ vd vs s, exec (mk vd vs) s = commit (intUnary t g vd vs s)) : IntUnaryRule mk t g := by
  intro s vd vs n a ⟨hvl, hn⟩ ha
  rw [h]
  exact ⟨_, commit_next.mpr ⟨_, intUnary_ok.mpr ⟨n, a, hvl, hn, ha, rfl⟩, rfl⟩, intResult_below s t vd n _ hn⟩

/-- R126: an instruction that is an integer operation on two registers. -/
theorem intBinaryRule_of_intBinary {mk : VNum → VNum → VNum → Instr} {t : EType} {g : Int → Int → Int}
    (h : ∀ vd vs1 vs2 s, exec (mk vd vs1 vs2) s = commit (intBinary t g vd vs1 vs2 s)) : IntBinaryRule mk t g := by
  intro s vd vs1 vs2 n a b ⟨hvl, hn⟩ ha hb
  rw [h]
  exact ⟨_, commit_next.mpr ⟨_, intBinary_ok.mpr ⟨n, a, b, hvl, hn, ha, hb, rfl⟩, rfl⟩, intResult_below s t vd n _ hn⟩

/-- R126: an instruction that is an integer operation on a vector and a scalar register. -/
theorem intScalarRule_of_intScalar {mk : VNum → VNum → XNum → Instr} {g : Int → Int → Int}
    (h : ∀ vd vs rs s, exec (mk vd vs rs) s = commit (intScalar g vd vs rs s)) : IntScalarRule mk g := by
  intro s vd vs rs n a c ⟨hvl, hn⟩ ha hc
  rw [h]
  exact ⟨_, commit_next.mpr ⟨_, intScalar_ok.mpr ⟨n, c, a, hvl, hn, hc, ha, rfl⟩, rfl⟩,
    intResult_below s .p16 vd n _ hn⟩

/-- Settles O4: the six spellings are integer operations on two registers. -/
theorem integerAddSubtractMultiply : Obligations.IntegerAddSubtractMultiply := by
  refine ⟨?_, ?_, ?_, ?_, ?_, ?_⟩ <;> exact intBinaryRule_of_intBinary fun _ _ _ _ => rfl

/-- Settles O5: an immediate is a part of the operation on the one register. -/
theorem integerNegateReluImmediate : Obligations.IntegerNegateReluImmediate := by
  refine ⟨?_, ?_, fun imm => ⟨?_, ?_, ?_⟩⟩ <;> exact intUnaryRule_of_intUnary fun _ _ _ => rfl

/-- Settles O6: the two spellings are integer operations on a vector and a scalar register. -/
theorem integerWithScalar : Obligations.IntegerWithScalar := by
  refine ⟨?_, ?_⟩ <;> exact intScalarRule_of_intScalar fun _ _ _ _ => rfl

/-! ## Division -/

/-- R128: a result no larger than the dividend is not changed by wrapping; a zero divisor gives the draw. -/
theorem divisionRule_of_intDivide {mk : VNum → VNum → VNum → Instr} {g : Int → Int → Int}
    (h : ∀ vd vs1 vs2 s, exec (mk vd vs1 vs2) s = commit (intDivide g vd vs1 vs2 s))
    (small : ∀ a b, |g a b| ≤ |a|) : DivisionRule mk g := by
  intro s vd vs1 vs2 n a b ⟨hvl, hn⟩ ha hb
  rw [h]
  refine ⟨_, commit_next.mpr ⟨_, intDivide_ok.mpr ⟨n, a, b, hvl, hn, ha, hb, rfl⟩, rfl⟩,
    fun i hi hbi => ?_, fun i hi => ?_, ?_⟩
  · have hfits : wrap 16 (g (a i) (b i)) = g (a i) (b i) := wrap_of_abs_le ((small _ _).trans (ha.abs_bound hi))
    refine (ve_putElems_below s vd _ hn hi).trans ?_
    rw [if_neg hbi, ival_strOf, hfits]
  · exact ⟨_, ve_putElems_below s vd _ hn hi, ival_bounds _⟩
  · exact onlyElements_putElems s .p16 vd _ _ fun _ => below_outside _

/-- Settles O8: neither a quotient nor a remainder exceeds its dividend. -/
theorem divisionAndRemainder : Obligations.DivisionAndRemainder :=
  ⟨divisionRule_of_intDivide (fun _ _ _ _ => rfl) abs_idiv_le,
    divisionRule_of_intDivide (fun _ _ _ _ => rfl) abs_imod_le⟩

/-! ## The widening product -/

theorem exec_vwmulP16 {s : State} {vs1 vs2 : VNum} {n : Nat} {a b : Nat → Int} (vd1 vd2 : VNum) (hn : Active s .p16 n)
    (ha : HoldsInts s .p16 vs1 n a) (hb : HoldsInts s .p16 vs2 n b) :
    exec (.vwmulP16 vd1 vd2 vs1 vs2) s =
      .next ((s.putElems vd1 .p16 (below n fun i => strOf 16 (wrap 16 (a i * b i)))).putElems vd2 .p16
        (below n fun i => strOf 16 (highPart 16 (a i * b i)))).advance := by
  show execVwmulP16 vd1 vd2 vs1 vs2 s = _
  rw [execVwmulP16, activeLen_active.mpr hn, ok_bind, collect_binary ha hb, ok_bind]
  simp only [map_getElem?_map_range]
  rfl

/-- Settles O7: both halves fit an element, and together they are the product. -/
theorem wideningMultiplyIsExact : Obligations.WideningMultiplyIsExact := by
  intro s vd1 vd2 vs1 vs2 n a b hne hn ha hb
  refine ⟨_, exec_vwmulP16 vd1 vd2 hn ha hb,
    fun i hi => ⟨wrap 16 (a i * b i), highPart 16 (a i * b i), ?_, ?_, rfl, ?_⟩,
    onlyElements_putElems_pair s .p16 vd1 vd2 _ _ _ (fun _ => below_outside _) fun _ => below_outside _⟩
  · rw [State.advance_ve, ve_putElems_other _ _ _ _ hne, ve_putElems_below _ _ _ hn.2 hi, ival_strOf, wrap_wrap]
  · rw [State.advance_ve, ve_putElems_below _ _ _ hn.2 hi, ival_strOf,
      wrap_of_abs_le (abs_highPart_mul_le (ha.abs_bound hi) (hb.abs_bound hi))]
  · exact (highPart_mul_add_wrap 16 _).symm

/-! ## Reductions -/

/-- R39: a scalar register that gets a number of 16 pents holds that number. -/
theorem scalarResult_exact {s u : State} {rd : XNum} {x : Int} (h : ScalarResult s u rd x) (hx : |x| ≤ half 16) :
    u.xval rd = .ok x ∧ OnlyScalar s u rd := by
  obtain ⟨hval, hframe⟩ := h
  exact ⟨by rw [hval, wrap_of_abs_le hx], hframe⟩

theorem commit_intReduce {s : State} {vs : VNum} {n : Nat} {a : Nat → Int} (g : List Int → Int) (rd : XNum)
    (hn : Active s .p16 n) (ha : HoldsInts s .p16 vs n a) :
    commit (intReduce g rd vs s) = .next (s.putX rd (g ((List.range n).map a))).advance := by
  rw [intReduce_ok.mpr ⟨n, a, hn.1, hn.2, ha, rfl⟩, commit_ok]

/-- What is chosen from the elements is the element of some index. -/
theorem exists_chosen_index {g : List Int → Int} {rel : Int → Int → Prop} {n : Nat} (a : Nat → Int) (pos : 1 ≤ n)
    (choice : ∀ {l : List Int}, l ≠ [] → g l ∈ l ∧ ∀ x ∈ l, rel x (g l)) :
    ∃ j, j < n ∧ g ((List.range n).map a) = a j ∧ ∀ i, i < n → rel (a i) (a j) := by
  obtain ⟨hmem, hall⟩ := choice (l := (List.range n).map a) (by simpa using Nat.ne_of_gt pos)
  obtain ⟨j, hj, hgj⟩ := List.mem_map.mp hmem
  rw [← hgj] at hall
  exact ⟨j, List.mem_range.mp hj, hgj.symm, fun i hi => hall _ (List.mem_map_of_mem (List.mem_range.mpr hi))⟩

/-- R136, R137: a reduction that chooses one of the elements leaves that element in Rd. -/
theorem commit_intReduce_choice {s : State} {vs : VNum} {n : Nat} {a : Nat → Int} {g : List Int → Int}
    {rel : Int → Int → Prop} (rd : XNum) (hn : Active s .p16 n) (pos : 1 ≤ n) (ha : HoldsInts s .p16 vs n a)
    (choice : ∀ {l : List Int}, l ≠ [] → g l ∈ l ∧ ∀ x ∈ l, rel x (g l)) :
    ∃ u j, commit (intReduce g rd vs s) = .next u ∧ j < n ∧ (∀ i, i < n → rel (a i) (a j)) ∧
      u.xval rd = .ok (a j) ∧ OnlyScalar s u rd := by
  obtain ⟨j, hj, hgj, hall⟩ := exists_chosen_index a pos choice
  refine ⟨_, j, commit_intReduce g rd hn ha, hj, hall, ?_⟩
  rw [hgj]
  exact scalarResult_exact (scalarResult_putX s rd (a j)) (ha.abs_bound hj)

theorem exec_vgavgpoolP16 {s : State} {vs : VNum} {n : Nat} {a : Nat → Int} (rd : XNum) (hn : Active s .p16 n)
    (ha : HoldsInts s .p16 vs n a) :
    exec (.vgavgpoolP16 rd vs) s = .next (s.putX rd (idiv ((List.range n).map a).sum n)).advance := by
  show execVgavgpoolP16 rd vs s = _
  rw [execVgavgpoolP16, activeLen_active.mpr hn, ok_bind, collect_eq ha]
  rfl

theorem exec_vdotP16 {s : State} {vs1 vs2 : VNum} {n : Nat} {a b : Nat → Int} (rd : XNum) (hn : Active s .p16 n)
    (ha : HoldsInts s .p16 vs1 n a) (hb : HoldsInts s .p16 vs2 n b) :
    exec (.vdotP16 rd vs1 vs2) s = .next (s.putX rd ((List.range n).map fun i => a i * b i).sum).advance := by
  show execVdotP16 rd vs1 vs2 s = _
  rw [execVdotP16, activeLen_active.mpr hn, ok_bind, collect_binary ha hb]
  rfl

/-- Settles O9: the sums are wrapped on the write; an element or a mean of elements needs no wrapping. -/
theorem reductionsToScalar : Obligations.ReductionsToScalar := by
  intro s rd vs vs2 n a b hn pos ha
  refine ⟨?sum, ?max, ?min, ?mean, fun hb => ?dot⟩
  case sum => exact ⟨_, commit_intReduce List.sum rd hn ha, scalarResult_putX s rd _⟩
  case max => exact commit_intReduce_choice rd hn pos ha listMax_spec
  case min => exact commit_intReduce_choice (rel := fun x m => m ≤ x) rd hn pos ha listMin_spec
  case mean =>
    exact ⟨_, exec_vgavgpoolP16 rd hn ha,
      scalarResult_exact (scalarResult_putX s rd _) (abs_mean_le pos fun _ => ha.abs_bound)⟩
  case dot => exact ⟨_, exec_vdotP16 rd hn ha hb, scalarResult_putX s rd _⟩

/-! ## Comparisons -/

/-- R145: an instruction that is a comparison by a test of `rel`. -/
theorem compareRule_of_compareInto {mk : MNum → VNum → VNum → Instr} {test : Int → Int → Bool} {rel : Int → Int → Prop}
    (h : ∀ md vs1 vs2 s, exec (mk md vs1 vs2) s = commit (compareInto test md vs1 vs2 s))
    (htest : ∀ a b, test a b = true ↔ rel a b) : CompareRule mk rel := by
  intro s md vs1 vs2 n a b ⟨hvl, hn⟩ ha hb
  have hbits : n ≤ 18 := hn.trans (by decide)
  rw [h]
  exact ⟨_, _, commit_next.mpr ⟨_, compareInto_ok.mpr ⟨n, a, b, hvl, hn, ha, hb, rfl⟩, rfl⟩,
    fun i _ => htest (a i) (b i), maskResult_below s md n _ hbits⟩

/-- Settles O10: each of the six tests decides its relation. -/
theorem comparisonsSetMaskBits : Obligations.ComparisonsSetMaskBits := by
  refine ⟨?_, ?_, ?_, ?_, ?_, ?_⟩ <;>
    exact compareRule_of_compareInto (fun _ _ _ _ => rfl) fun _ _ => decide_eq_true_iff

end Sys2Proof.Machine
end

section
/-! The floating-point instructions (42_float.md), with the float instructions of 43_neural.md: no proof looks into a
function of the numerics record (R150), so each rule holds for every function `g`. -/

namespace Sys2Proof.Machine

/-! ## Element by element -/

/-- R151: an instruction that is a function of raw strings on one register. -/
theorem rawUnaryRule_of_rawUnary {mk : VNum → VNum → Instr} {t : EType} {g : Pat (ew t) → Pat (ew t)}
    (h : ∀ vd vs s, exec (mk vd vs) s = commit (rawUnary t g vd vs s)) : RawUnaryRule mk t g := by
  intro s vd vs n a ⟨hvl, hn⟩ ha
  rw [h]
  exact ⟨_, commit_next.mpr ⟨_, rawUnary_ok.mpr ⟨n, a, hvl, hn, ha, rfl⟩, rfl⟩, rawResult_below s t vd n _ hn⟩

/-- R151: an instruction that is a function of raw strings on two registers. -/
theorem rawBinaryRule_of_rawBinary {mk : VNum → VNum → VNum → Instr} {t : EType}
    {g : Pat (ew t) → Pat (ew t) → Pat (ew t)}
    (h : ∀ vd vs1 vs2 s, exec (mk vd vs1 vs2) s = commit (rawBinary t g vd vs1 vs2 s)) : RawBinaryRule mk t g := by
  intro s vd vs1 vs2 n a b ⟨hvl, hn⟩ ha hb
  rw [h]
  exact ⟨_, commit_next.mpr ⟨_, rawBinary_ok.mpr ⟨n, a, b, hvl, hn, ha, hb, rfl⟩, rfl⟩, rawResult_below s t vd n _ hn⟩

/-- R151: an instruction that is a function of raw strings on three registers. -/
theorem rawTernaryRule_of_rawTernary {mk : VNum → VNum → VNum → VNum → Instr} {g : Pat 16 → Pat 16 → Pat 16 → Pat 16}
    (h : ∀ vd vs1 vs2 vs3 s, exec (mk vd vs1 vs2 vs3) s = commit (rawTernary .f16 g vd vs1 vs2 vs3 s)) :
    RawTernaryRule mk g := by
  intro s vd vs1 vs2 vs3 n a b c ⟨hvl, hn⟩ ha hb hc
  rw [h]
  exact ⟨_, commit_next.mpr ⟨_, rawTernary_ok.mpr ⟨n, a, b, c, hvl, hn, ha, hb, hc, rfl⟩, rfl⟩,
    rawResult_below s .f16 vd n _ hn⟩

/-- Settles O11: each spelling has one of the three raw shapes; the scale of VDEQUANT5 is a part of its function. -/
theorem floatElementwise : Obligations.FloatElementwise := by
  refine ⟨?binary16, ?binary28, ?ternary, ?unary, fun scale => ?dequant⟩
  case binary16 => refine ⟨?_, ?_, ?_, ?_, ?_, ?_⟩ <;> exact rawBinaryRule_of_rawBinary fun _ _ _ _ => rfl
  case binary28 => refine ⟨?_, ?_, ?_, ?_⟩ <;> exact rawBinaryRule_of_rawBinary fun _ _ _ _ => rfl
  case ternary => refine ⟨?_, ?_, ?_⟩ <;> exact rawTernaryRule_of_rawTernary fun _ _ _ _ _ => rfl
  case unary => refine ⟨?_, ?_, ?_, ?_, ?_, ?_, ?_, ?_, ?_⟩ <;> exact rawUnaryRule_of_rawUnary fun _ _ _ => rfl
  case dequant => exact rawUnaryRule_of_rawUnary fun _ _ _ => rfl

/-! ## With a scalar register -/

theorem exec_vredsumF16 {s : State} {vs : VNum} {n : Nat} {a : Nat → Pat 16} (rd : XNum) (hn : Active s .f16 n)
    (ha : HoldsRaw s .f16 vs n a) :
    exec (.vredsumF16 rd vs) s = .next (s.setX rd (Config.fredsum16 ((List.range n).map a))).advance := by
  show execVredsumF16 rd vs s = _
  rw [execVredsumF16, activeLen_active.mpr hn, ok_bind, collect_eq ha]
  rfl

theorem exec_vfdivVxF16 {s : State} {vs : VNum} {rs : XNum} {n : Nat} {a : Nat → Pat 16} {c : Pat 16} (vd : VNum)
    (hn : Active s .f16 n) (ha : HoldsRaw s .f16 vs n a) (hc : s.xraw rs = .ok c) :
    exec (.vfdivVxF16 vd vs rs) s = .next (s.putElems vd .f16 (below n fun i => Config.fdiv16 (a i) c)).advance :=
  commit_next.mpr ⟨_, rawScalar_ok.mpr ⟨n, c, a, hn.1, hn.2, hc, ha, rfl⟩, rfl⟩

/-- Settles O12: the reduction is one write of a scalar register, the division one write of the active elements. -/
theorem floatWithScalar : Obligations.FloatWithScalar := by
  intro s rd rs vd vs n a c hn ha
  refine ⟨⟨_, exec_vredsumF16 rd hn ha, ?_, onlyScalar_setX s rd _⟩, fun hc => ?_⟩
  · rw [State.advance_xraw, xraw_setX, if_pos rfl]
  · exact ⟨_, exec_vfdivVxF16 vd hn ha hc, rawResult_below s .f16 vd n _ hn.2⟩

end Sys2Proof.Machine
end

section
/-! Rounding division (R196): what is left of the dividend is, up to its sign, `|a| - |d| * q` for the quotient `q` of
natural numbers that `rdiv` takes, so the bounds are those of that quotient. -/

namespace Sys2Proof.Machine

/-- The natural number that `rdiv` gives a sign to. -/
def roundQuot (m k : Nat) : Nat := (2 * m + k) / (2 * k)

/-- The remainder of the division is `k` more than twice the error, so a tie is remainder 0: the quotient then lies
above. -/
theorem roundQuot_error (m : Nat) {k : Nat} (hk : 0 < k) :
    2 * |(m : Int) - k * roundQuot m k| ≤ k ∧
      (2 * |(m : Int) - k * roundQuot m k| = k → (m : Int) < k * roundQuot m k) := by
  have hdiv : 2 * k * roundQuot m k + (2 * m + k) % (2 * k) = 2 * m + k := Nat.div_add_mod (2 * m + k) (2 * k)
  have hmod : (2 * m + k) % (2 * k) < 2 * k := Nat.mod_lt _ (by omega)
  rw [mul_assoc] at hdiv
  rw [← Nat.cast_mul, Int.abs_eq_natAbs]
  generalize k * roundQuot m k = p at hdiv ⊢
  omega

/-- R196: the sign of the divisor cancels. -/
theorem mul_rdiv (a d : Int) : d * rdiv a d = a.sign * (d.natAbs * roundQuot a.natAbs d.natAbs) := by
  calc d * rdiv a d = a.sign * (d * d.sign * roundQuot a.natAbs d.natAbs) := by rw [rdiv, roundQuot]; ring
    _ = _ := by rw [Int.mul_sign_self]

theorem abs_sign_mul {a : Int} (ha : a ≠ 0) (x : Int) : |a.sign * x| = |x| := by
  rw [abs_mul, Int.abs_sign_of_ne_zero ha, one_mul]

/-- Settles O58: the quotient of a dividend of 0 is 0; for any other dividend the error and the product are, up to
sign, those of the natural numbers. -/
theorem roundingDivision : Obligations.RoundingDivision := by
  intro a d hd
  have hpos : 0 < d.natAbs := Int.natAbs_pos.mpr hd
  rw [mul_rdiv, Int.abs_eq_natAbs d]
  by_cases ha : a = 0
  · subst ha
    simp [(abs_pos.mpr hd).ne]
  · obtain ⟨hle, htie⟩ := roundQuot_error a.natAbs hpos
    have herror (x : Int) : a - a.sign * x = a.sign * (a.natAbs - x) := by rw [mul_sub, Int.sign_mul_natAbs]
    rw [herror, abs_sign_mul ha, abs_sign_mul ha, Int.abs_eq_natAbs a]
    exact ⟨hle, fun h => (htie h).trans_le (le_abs_self _)⟩

end Sys2Proof.Machine
end

section
/-! Quantisation and pooling (R189 to R194): one write of Vd each. -/

namespace Sys2Proof.Machine

/-! ## Quantisation -/

theorem abs_clamp_le (v : Int) {b : Int} (hb : 0 ≤ b) : |clamp v (-b) b| ≤ b :=
  abs_le.mpr ⟨le_min (le_max_right v (-b)) (neg_le_self hb), min_le_right _ b⟩

/-- R189, R191: a clamped quotient fits an element, so it is not changed by wrapping; a zero scale gives the draw. -/
theorem quantiseRule_of_quantise {mk : VNum → VNum → Int → Instr} {bound : Int}
    (h : ∀ vd vs scale s, exec (mk vd vs scale) s = commit (quantise bound vd vs scale s))
    (nonneg : 0 ≤ bound) (fits : bound ≤ half 16) : QuantiseRule mk bound := by
  intro s vd vs scale n a ⟨hvl, hn⟩ ha
  rw [h]
  refine ⟨_, commit_next.mpr ⟨_, quantise_ok.mpr ⟨n, a, hvl, hn, ha, rfl⟩, rfl⟩,
    fun hscale i hi => ?_, fun i hi => ?_, ?_⟩
  · have hwrap : wrap 16 (clamp (rdiv (a i) scale) (-bound) bound) = clamp (rdiv (a i) scale) (-bound) bound :=
      wrap_of_abs_le ((abs_clamp_le _ nonneg).trans fits)
    refine (ve_putElems_below s vd _ hn hi).trans ?_
    rw [if_neg hscale, ival_strOf, hwrap, clamp]
  · exact ⟨_, ve_putElems_below s vd _ hn hi, ival_bounds _⟩
  · exact onlyElements_putElems s .p16 vd _ _ fun _ => below_outside _

/-- Settles O14: both bounds are far below the largest element. -/
theorem quantisation : Obligations.Quantisation :=
  ⟨quantiseRule_of_quantise (fun _ _ _ _ => rfl) (by decide) (by decide),
    quantiseRule_of_quantise (fun _ _ _ _ => rfl) (by decide) (by decide)⟩

/-! ## Pooling -/

/-- R192: the first `n` of a list, as the elements of a write: those below both `n` and the length. -/
theorem take_getElem?_map {α β : Type} (l : List α) (n k : Nat) (d : α) (f : α → β) :
    ((l.take n)[k]?).map f = if k < min n l.length then some (f (l.getD k d)) else none := by
  by_cases hk : k < min n l.length
  · obtain ⟨hn, hl⟩ := lt_min_iff.mp hk
    simp [hk, hl]
  · have hlen : (l.take n).length ≤ k := by rw [List.length_take]; exact Nat.le_of_not_lt hk
    rw [if_neg hk, List.getElem?_eq_none hlen, Option.map_none]

/-- R192: an instruction that pools, whatever the pooling function is. -/
theorem poolRule_of_pool {mk : VNum → VNum → Instr} {g : List Int → List Int}
    (h : ∀ vd vs s, exec (mk vd vs) s = commit (pool g vd vs s)) : PoolRule mk g := by
  intro s vd vs n a ⟨hvl, hn⟩ ha
  rw [h]
  refine ⟨_, commit_next.mpr ⟨_, pool_ok.mpr ⟨n, a, hvl, hn, ha, rfl⟩, rfl⟩,
    intResult_putElems s .p16 vd _ _ _ (fun k hk => ⟨?inRange, ?written⟩) fun k hk => ?kept⟩
  case inRange => exact (lt_min_iff.mp hk).1.trans_le hn
  case written => rw [take_getElem?_map _ n k 0, if_pos hk]
  case kept => rw [take_getElem?_map _ n k 0, if_neg hk]

/-- Settles O15: both spellings pool. -/
theorem poolingResults : Obligations.PoolingResults :=
  ⟨poolRule_of_pool fun _ _ _ => rfl, poolRule_of_pool fun _ _ _ => rfl⟩

end Sys2Proof.Machine
end

section
/-! The softmax sequence (R188): the rules of its three instructions, chained by what the first two leave unchanged. -/

namespace Sys2Proof.Machine

/-! ## What the frames leave readable -/

theorem OnlyElements.active {s u : State} {t t' : EType} {dst : VNum → Prop} {w : Nat → Prop} {n : Nat}
    (h : OnlyElements s u t dst w) (hn : Active s t' n) : Active u t' n :=
  ⟨(congrArg State.vl h.rest).trans hn.1, hn.2⟩

theorem OnlyScalar.active {s u : State} {rd : XNum} {t : EType} {n : Nat} (h : OnlyScalar s u rd)
    (hn : Active s t n) : Active u t n :=
  ⟨(congrArg State.vl h.rest).trans hn.1, hn.2⟩

theorem OnlyScalar.vraw {s u : State} {rd : XNum} (h : OnlyScalar s u rd) (r : VNum) (t : EType) (i : Nat) :
    u.vraw r t i = s.vraw r t i := by
  rw [h.rest]; rfl

theorem OnlyScalar.holdsRaw {s u : State} {rd : XNum} {t : EType} {r : VNum} {n : Nat} {a : Nat → Pat (ew t)}
    (h : OnlyScalar s u rd) (ha : HoldsRaw s t r n a) : HoldsRaw u t r n a :=
  fun i hi => (h.vraw r t i).trans (ha i hi)

theorem OnlyElements.xraw {s u : State} {t : EType} {dst : VNum → Prop} {w : Nat → Prop}
    (h : OnlyElements s u t dst w) (r : XNum) : u.xraw r = s.xraw r := by
  rw [h.rest]; rfl

/-! ## The sequence -/

/-- R188 with any registers: the sum leaves the exponentials where they are, and the division leaves the sum. -/
theorem softmax_run {s : State} {n : Nat} {e : Nat → Pat 16} (vd vs : VNum) (rd : XNum) (hn : Active s .f16 n)
    (he : HoldsRaw s .f16 vs n e) :
    ∃ s1 s2 u, exec (.vexpF16 vd vs) s = .next s1 ∧ exec (.vredsumF16 rd vd) s1 = .next s2 ∧
      exec (.vfdivVxF16 vd vd rd) s2 = .next u ∧
      (∀ i, i < n → u.vraw vd .f16 i =
        .ok (Config.fdiv16 (Config.fexp16 (e i)) (Config.fredsum16 ((List.range n).map fun j => Config.fexp16 (e j))))) ∧
      u.xraw rd = .ok (Config.fredsum16 ((List.range n).map fun j => Config.fexp16 (e j))) := by
  have hexp : RawUnaryRule .vexpF16 .f16 Config.fexp16 := rawUnaryRule_of_rawUnary fun _ _ _ => rfl
  obtain ⟨s1, run1, exps, only1⟩ := hexp s vd vs n e hn he
  have hn1 := only1.active hn
  obtain ⟨s2, run2, sum, only2⟩ := (floatWithScalar s1 rd rd vd vd n _ default hn1 exps).1
  obtain ⟨u, run3, quotients, only3⟩ :=
    (floatWithScalar s2 rd rd vd vd n _ _ (only2.active hn1) (only2.holdsRaw exps)).2 sum
  exact ⟨s1, s2, u, run1, run2, run3, quotients, (only3.xraw rd).trans sum⟩

/-- Settles O13: the printed words are the encodings of the sequence for V3, V1 and x10. -/
theorem softmaxSequence : Obligations.SoftmaxSequence := by
  refine ⟨?_, ?_, ?_, fun s n e hn he => softmax_run 3 1 10 hn he⟩
  all_goals exact decode_of_eq_encode (by decide) (by decide)

end Sys2Proof.Machine
end

section
/-! Writes to several registers one after another (R26, R29), of which the four rows of a group are one: what each
register then holds, and what is left unchanged. -/

namespace Sys2Proof.Machine

variable {t : EType} {ws : List (VNum × (Nat → Option (Pat (ew t))))}

theorem ve_putAll_other (s : State) {m : VNum} (i : Nat) (h : ∀ w ∈ ws, m ≠ w.1) :
    (s.putAll t ws).ve m t i = s.ve m t i := by
  induction ws generalizing s with
  | nil => rfl
  | cons w ws ih =>
    obtain ⟨hw, hws⟩ := List.forall_mem_cons.mp h
    exact (ih _ hws).trans (ve_putElems_other s t w.2 i hw)

/-- Where no register is written twice, each write reads back. -/
theorem ve_putAll_written (s : State) {w : VNum × (Nat → Option (Pat (ew t)))} {i : Nat} {e : Pat (ew t)}
    (distinct : (ws.map Prod.fst).Nodup) (hw : w ∈ ws) (hi : i < epr t) (he : w.2 i = some e) :
    (s.putAll t ws).ve w.1 t i = .ok (ival e) := by
  induction ws generalizing s with
  | nil => cases hw
  | cons x ws ih =>
    obtain ⟨hx, hws⟩ := List.nodup_cons.mp distinct
    rw [putAll_cons]
    rcases List.mem_cons.mp hw with rfl | hw
    · have last : ∀ y ∈ ws, w.1 ≠ y.1 := fun y hy h => hx (List.mem_map.mpr ⟨y, hy, h.symm⟩)
      rw [ve_putAll_other _ i last, ve_putElems_written s w.1 t w.2 i e hi he]
    · exact ih _ hws hw

theorem onlyElements_putAll (s : State) {w : Nat → Prop} (h : ∀ x ∈ ws, ∀ i, ¬ w i → x.2 i = none)
    (inRange : ∀ i, w i → i < epr t) :
    OnlyElements s (s.putAll t ws).advance t (· ∈ ws.map Prod.fst) w where
  vectors m p hp := by
    rw [State.advance_vpent]
    refine vpent_putAll_kept s t ws m p fun x hx => ?_
    rcases hp with hreg | hpad | helem
    · exact .inl fun hm => hreg (List.mem_map.mpr ⟨x, hx, hm.symm⟩)
    · exact .inr (h x hx _ fun hw => (inRange _ hw).not_ge hpad)
    · exact .inr (h x hx _ helem)
  memory a := by rw [State.advance_memPent, putAll_frame]; rfl
  rest := congrArg State.advance (putAll_frame s t ws)

/-- R26: the four registers of a group are different. -/
theorem groupReg_injective (base : GNum) : Function.Injective (groupReg base) := fun _ _ h =>
  Fin.ext (Nat.add_left_cancel (congrArg Fin.val h))

/-- R202: the writes of `val 0`, ..., `val 3` to the registers of a group, in that order. -/
def groupWrites (base : GNum) (val : Fin 4 → Nat → Option (Pat (ew t))) :
    List (VNum × (Nat → Option (Pat (ew t)))) :=
  List.ofFn fun r => (groupReg base r, val r)

variable (base : GNum) (val : Fin 4 → Nat → Option (Pat (ew t)))

theorem groupWrites_fst : (groupWrites base val).map Prod.fst = List.ofFn (groupReg base) := List.map_ofFn

theorem mem_groupWrites {w : VNum × (Nat → Option (Pat (ew t)))} :
    w ∈ groupWrites base val ↔ ∃ r, (groupReg base r, val r) = w := List.mem_ofFn

/-- Each register of a group reads back its own write. -/
theorem ve_putAll_groupWrites (s : State) {r : Fin 4} {i : Nat} {e : Pat (ew t)} (hi : i < epr t)
    (he : val r i = some e) : (s.putAll t (groupWrites base val)).ve (groupReg base r) t i = .ok (ival e) := by
  have distinct : ((groupWrites base val).map Prod.fst).Nodup := by
    rw [groupWrites_fst]
    exact List.nodup_ofFn.mpr (groupReg_injective base)
  exact ve_putAll_written s (w := (groupReg base r, val r)) distinct ((mem_groupWrites base val).mpr ⟨r, rfl⟩) hi he

theorem onlyElements_groupWrites (s : State) {w : Nat → Prop} (h : ∀ r i, ¬ w i → val r i = none)
    (inRange : ∀ i, w i → i < epr t) :
    OnlyElements s (s.putAll t (groupWrites base val)).advance t (fun m => ∃ r, m = groupReg base r) w := by
  have hregs : (fun m => ∃ r, m = groupReg base r) = (· ∈ (groupWrites base val).map Prod.fst) := by
    funext m
    rw [groupWrites_fst, List.mem_ofFn]
    simp only [eq_comm]
  rw [hregs]
  refine onlyElements_putAll s (fun x hx i hi => ?_) inRange
  obtain ⟨r, rfl⟩ := (mem_groupWrites base val).mp hx
  exact h r i hi

end Sys2Proof.Machine
end

section
/-! The matrix instructions (44_matrix.md): VMATVEC and VMMCROSS are one write of Vd, VOUTER is one write of each
register of the group. -/

namespace Sys2Proof.Machine

/-! ## The matrix-vector product -/

theorem exec_vmatvecP16 {s : State} {base : GNum} {vs : VNum} {n : Nat} {m : Fin 4 → Nat → Int} {a : Nat → Int}
    (vd : VNum) (hn : Active s .p16 n) (hm : ∀ r, HoldsInts s .p16 (groupReg base r) n (m r))
    (ha : HoldsInts s .p16 vs n a) :
    exec (.vmatvecP16 vd base vs) s =
      .next (s.putElems vd .p16 fun i =>
        ((List.ofFn fun r => ((List.range n).map fun j => m r j * a j).sum)[i]?).map (strOf 16)).advance := by
  have row (r : Fin 4) : rowDot base vs n s r = .ok ((List.range n).map fun j => m r j * a j).sum :=
    rowDot_ok.mpr ⟨m r, a, hm r, ha, rfl⟩
  show execVmatvecP16 vd base vs s = _
  rw [execVmatvecP16, activeLen_active.mpr hn, ok_bind]
  simp only [row, ok_bind]
  rfl

/-- Settles O16: the four products are read before Vd, which may be a register of the group, is written. -/
theorem matrixVectorProduct : Obligations.MatrixVectorProduct := by
  intro s vd base vs n m a hn hm ha
  refine ⟨_, exec_vmatvecP16 vd hn hm ha, fun r => ?written, onlyElements_putElems s .p16 vd _ _ fun i hi => ?kept⟩
  case written =>
    have hr : (r : Nat) < epr .p16 := r.isLt.trans (by decide)
    rw [State.advance_ve, ve_putElems_written s vd .p16 _ r _ hr (by rw [List.getElem?_ofFn, dif_pos r.isLt]; rfl),
      ival_strOf]
  case kept => rw [List.getElem?_ofFn, dif_neg hi]; rfl

/-! ## The outer product -/

theorem exec_vouterP16 {s : State} {vs1 vs2 : VNum} {n : Nat} {a : Fin 4 → Int} {b : Nat → Int} (base : GNum)
    (hn : Active s .p16 n) (ha : ∀ i : Fin 4, s.ve vs1 .p16 i = .ok (a i)) (hb : HoldsInts s .p16 vs2 n b) :
    exec (.vouterP16 base vs1 vs2) s =
      .next (s.putAll .p16 (groupWrites base fun i => below n fun j => strOf 16 (a i * b j))).advance := by
  show execVouterP16 base vs1 vs2 s = _
  rw [execVouterP16, activeLen_active.mpr hn, ok_bind, outerRow_eq (i := 0) (ha 0) hb, ok_bind,
    outerRow_eq (i := 1) (ha 1) hb, ok_bind, outerRow_eq (i := 2) (ha 2) hb, ok_bind,
    outerRow_eq (i := 3) (ha 3) hb, ok_bind]
  simp only [putRow_map]
  rfl

/-- Settles O17: the registers of the group are different, so a later row leaves the earlier ones. -/
theorem outerProduct : Obligations.OuterProduct := by
  intro s base vs1 vs2 n a b hn ha hb
  refine ⟨_, exec_vouterP16 base hn ha hb, fun i j hj => ?_,
    onlyElements_groupWrites base _ s (fun _ _ => below_outside _) fun _ hi => hi.trans_le hn.2⟩
  rw [State.advance_ve, ve_putAll_groupWrites base _ s (hj.trans_le hn.2) (below_lt _ hj), ival_strOf]

/-! ## The crossbar -/

theorem exec_vmmcrossP16 {s : State} {vs : VNum} {n : Nat} {a : Nat → Int} (vd : VNum) (addr : Int)
    (hn : Active s .p16 n) (ha : HoldsInts s .p16 vs n a) :
    exec (.vmmcrossP16 vd vs addr) s =
      .next (s.putElems vd .p16
        (below n fun i => strOf 16 (Config.crossbar addr ((List.range n).map a) i))).advance := by
  show execVmmcrossP16 vd vs addr s = _
  rw [execVmmcrossP16, activeLen_active.mpr hn, ok_bind, collect_eq ha]
  rfl

/-- Settles O18: the answer is written like any other integer result, whatever the crossbar is. -/
theorem crossbarQuery : Obligations.CrossbarQuery := by
  intro s vd vs addr n a hn ha
  exact ⟨_, exec_vmmcrossP16 vd addr hn ha, intResult_below s .p16 vd n _ hn.2⟩

end Sys2Proof.Machine
end

section
/-! Unit-stride, segment, strided and indexed loads and stores (45_memory_ops.md): once its operands are read, each is
one `loadActive` or one `storeElems` at addresses of its own, so the result is said once for loads and once for
stores. -/

namespace Sys2Proof.Machine

variable {s : State} {t : EType} {n : Nat} {b : Int}

/-! ## Reading the operands -/

/-- What an instruction reads goes to what follows. -/
theorem commit_bind_ok {α : Type} {x : Except Fault α} {a : α} (h : x = .ok a) (k : α → Except Fault State) :
    commit (x >>= k) = commit (k a) := by
  rw [h, ok_bind]

/-- R210: the active length and the base address go to what follows. -/
theorem commit_baseAddr {r : XNum} (hn : Active s t n) (hb : s.xval r = .ok b) (k : Nat × Int → Except Fault State) :
    commit (baseAddr t r s >>= k) = commit (k (n, b)) :=
  commit_bind_ok (baseAddr_active hn hb) k

/-- R221: whole structures go on to the transfer. -/
theorem commit_wholeSegments {fields : Nat} (h : n % fields = 0) (k : Unit → Except Fault State) :
    commit (wholeSegments n fields >>= k) = commit (k ()) :=
  commit_bind_ok (wholeSegments_ok.mpr h) k

/-- R221: a partial structure faults before any element is read. -/
theorem commit_wholeSegments_partial {fields : Nat} (h : n % fields ≠ 0) (k : Unit → Except Fault State) :
    commit (wholeSegments n fields >>= k) = .fault (.segVL n fields) := by
  rw [wholeSegments_error.mpr ⟨h, rfl⟩, error_bind, commit_error]

/-! ## Partial structures -/

theorem loadSegments_partial {vd : VNum} {rs : XNum} {fields : Nat} (hn : Active s .p16 n) (hb : s.xval rs = .ok b)
    (h : n % fields ≠ 0) : commit (loadSegments fields vd rs s) = .fault (.segVL n fields) :=
  (commit_baseAddr hn hb _).trans (commit_wholeSegments_partial h _)

/-- Settles O37: the number of active elements is checked right after the base address. -/
theorem partialSegmentFaults : Obligations.PartialSegmentFaults := fun _ _ _ _ _ hn hb =>
  ⟨fun h => ⟨loadSegments_partial hn hb h, (commit_baseAddr hn hb _).trans (commit_wholeSegments_partial h _)⟩,
    loadSegments_partial hn hb, loadSegments_partial hn hb⟩

/-! ## Loads -/

/-- R210: a load whose ranges are valid and spell `e` writes `e` to the active elements. -/
theorem commit_loadActive {addr : Nat → Int} {e : Nat → Pat (ew t)} (vd : VNum) (hn : n ≤ epr t)
    (he : ∀ i, i < n → Spells s (ew t) (addr i) (e i)) :
    ∃ u, commit (loadActive t vd n addr s) = .next u ∧ RawResult s u t vd (· < n) e :=
  ⟨_, commit_next.mpr ⟨_, loadActive_ok.mpr ⟨e, fun i hi => memReadRaw_spells.mpr (he i hi), rfl⟩, rfl⟩,
    rawResult_below s t vd n e hn⟩

/-- R211: an instruction that, its operands read, is a load from consecutive elements. -/
theorem unitLoadRule_of_loadActive {mk : VNum → XNum → Instr} {fields : Nat}
    (h : ∀ vd rs s n b, Active s t n → s.xval rs = .ok b → n % fields = 0 →
      exec (mk vd rs) s = commit (loadActive t vd n (fun i => b + i * ew t) s)) : UnitLoadRule mk t fields := by
  intro s vd rs n b e hn hb hfields he
  rw [h vd rs s n b hn hb hfields]
  exact commit_loadActive vd hn.2 he

theorem unitLoadRule_of_loadUnit {mk : VNum → XNum → Instr}
    (h : ∀ vd rs s, exec (mk vd rs) s = commit (loadUnit t vd rs s)) : UnitLoadRule mk t 1 :=
  unitLoadRule_of_loadActive fun vd rs s _ _ hn hb _ => (h vd rs s).trans (commit_baseAddr hn hb _)

theorem unitLoadRule_of_loadSegments {mk : VNum → XNum → Instr} {fields : Nat}
    (h : ∀ vd rs s, exec (mk vd rs) s = commit (loadSegments fields vd rs s)) : UnitLoadRule mk .p16 fields :=
  unitLoadRule_of_loadActive fun vd rs s _ _ hn hb hfields =>
    ((h vd rs s).trans (commit_baseAddr hn hb _)).trans (commit_wholeSegments hfields _)

/-- Settles O19: three spellings are unit-stride loads, and three the same of whole structures. -/
theorem unitStrideAndSegmentLoads : Obligations.UnitStrideAndSegmentLoads := by
  refine ⟨?_, ?_, ?_, ?_, ?_, ?_⟩
  case refine_1 | refine_2 | refine_3 => exact unitLoadRule_of_loadUnit fun _ _ _ => rfl
  all_goals exact unitLoadRule_of_loadSegments fun _ _ _ => rfl

/-- R213: the stride is read after the base. -/
theorem exec_vldsP16 {rs rt : XNum} {st : Int} (vd : VNum) (hn : Active s .p16 n) (hb : s.xval rs = .ok b)
    (hst : s.xval rt = .ok st) :
    exec (.vldsP16 vd rs rt) s = commit (loadActive .p16 vd n (fun i => b + i * st) s) :=
  (commit_baseAddr hn hb _).trans (commit_bind_ok hst _)

/-- R215: the offsets are read after the base and before memory. -/
theorem exec_vldiP16 {rs : XNum} {vi : VNum} {o : Nat → Int} (vd : VNum) (hn : Active s .p16 n)
    (hb : s.xval rs = .ok b) (ho : HoldsInts s .p16 vi n o) :
    exec (.vldiP16 vd rs vi) s =
      commit (loadActive .p16 vd n (fun i => b + ((List.range n).map o).getD i 0) s) :=
  (commit_baseAddr hn hb _).trans (commit_bind_ok (collect_eq ho) _)

/-- Settles O20: both are loads of the active elements, one at strided and one at indexed addresses. -/
theorem stridedAndGatherLoads : Obligations.StridedAndGatherLoads := by
  intro s vd vi rs rt n b st o e hn hb
  refine ⟨fun hst he => ?strided, fun ho he => ?gather⟩
  case strided =>
    rw [exec_vldsP16 vd hn hb hst]
    exact commit_loadActive vd hn.2 he
  case gather =>
    rw [exec_vldiP16 vd hn hb ho]
    refine commit_loadActive vd hn.2 fun i hi => ?_
    rw [getD_map_range o 0 hi]
    exact he i hi

/-! ## Stores -/

/-- R60, R210: strings whose ranges may all be stored to are stored in ascending order. -/
theorem commit_storeElems {len : Nat} {addr : Nat → Int} (e : Nat → Pat len)
    (hs : ∀ i, i < n → Storable s len (addr i)) :
    ∃ u, commit (s.storeElems ((List.range n).map fun i => (addr i, e i))) = .next u ∧
      StoreResult s u len (· < n) addr e := by
  refine ⟨_, commit_next.mpr ⟨_, storeElems_ok.mpr ⟨fun w hw => ?_, rfl⟩, rfl⟩, storeResult_below s len n addr e⟩
  obtain ⟨i, hi, rfl⟩ := List.mem_map.mp hw
  exact storeFault_storable.mpr (hs i (List.mem_range.mp hi))

/-- R210: a store whose source can be read and whose ranges may all be stored to. -/
theorem commit_storeActive {vs : VNum} {addr : Nat → Int} {e : Nat → Pat (ew t)} (he : HoldsRaw s t vs n e)
    (hs : ∀ i, i < n → Storable s (ew t) (addr i)) :
    ∃ u, commit (storeActive t vs n addr s) = .next u ∧ StoreResult s u (ew t) (· < n) addr e :=
  ⟨_, commit_next.mpr ⟨_, storeActive_ok.mpr ⟨e, he, fun i hi => storeFault_storable.mpr (hs i hi), rfl⟩, rfl⟩,
    storeResult_below s (ew t) n addr e⟩

/-- R212: an instruction that, its scalar operands read, is a store to consecutive elements. -/
theorem unitStoreRule_of_storeActive {mk : VNum → XNum → Instr} {fields : Nat}
    (h : ∀ vs rd s n b, Active s t n → s.xval rd = .ok b → n % fields = 0 →
      exec (mk vs rd) s = commit (storeActive t vs n (fun i => b + i * ew t) s)) : UnitStoreRule mk t fields := by
  intro s vs rd n b e hn hb hfields he hs
  rw [h vs rd s n b hn hb hfields]
  exact commit_storeActive he hs

theorem unitStoreRule_of_storeUnit {mk : VNum → XNum → Instr}
    (h : ∀ vs rd s, exec (mk vs rd) s = commit (storeUnit t vs rd s)) : UnitStoreRule mk t 1 :=
  unitStoreRule_of_storeActive fun vs rd s _ _ hn hb _ => (h vs rd s).trans (commit_baseAddr hn hb _)

/-- R220: VSSEG2 of whole structures is a unit-stride store. -/
theorem unitStoreRule_vsseg2P16 : UnitStoreRule .vsseg2P16 .p16 2 :=
  unitStoreRule_of_storeActive fun _ _ _ _ _ hn hb hfields =>
    (commit_baseAddr hn hb _).trans (commit_wholeSegments hfields _)

/-- Settles O21: three spellings are unit-stride stores, and VSSEG2 is one of whole structures. -/
theorem unitStrideAndSegmentStores : Obligations.UnitStrideAndSegmentStores := by
  refine ⟨?_, ?_, ?_, unitStoreRule_vsseg2P16⟩ <;> exact unitStoreRule_of_storeUnit fun _ _ _ => rfl

/-- R214: the stride is read after the base. -/
theorem exec_vstsP16 {rd rt : XNum} {st : Int} (vs : VNum) (hn : Active s .p16 n) (hb : s.xval rd = .ok b)
    (hst : s.xval rt = .ok st) :
    exec (.vstsP16 vs rd rt) s = commit (storeActive .p16 vs n (fun i => b + i * st) s) :=
  (commit_baseAddr hn hb _).trans (commit_bind_ok hst _)

/-- R216: the offset and the data of each element are read before anything is stored. -/
theorem exec_vstiP16 {rd : XNum} {vs vi : VNum} {o : Nat → Int} {e : Nat → Pat 16} (hn : Active s .p16 n)
    (hb : s.xval rd = .ok b) (ho : HoldsInts s .p16 vi n o) (he : HoldsRaw s .p16 vs n e) :
    exec (.vstiP16 vs rd vi) s = commit (s.storeElems ((List.range n).map fun i => (b + o i, e i))) := by
  have hread : collect n (fun i => s.ve vi .p16 i >>= fun a => s.vraw vs .p16 i >>= fun p => pure (b + a, p)) =
      .ok ((List.range n).map fun i => (b + o i, e i)) :=
    collect_eq fun i hi => by rw [ho i hi, he i hi]; rfl
  exact (commit_baseAddr hn hb _).trans (commit_bind_ok hread _)

/-- Settles O22: both are stores of the active elements, one at strided and one at indexed addresses. -/
theorem stridedAndScatterStores : Obligations.StridedAndScatterStores := by
  intro s vs vi rd rt n b st o e hn hb he
  refine ⟨fun hst hs => ?strided, fun ho hs => ?scatter⟩
  case strided =>
    rw [exec_vstsP16 vs hn hb hst]
    exact commit_storeActive he hs
  case scatter =>
    rw [exec_vstiP16 hn hb ho he]
    exact commit_storeElems e hs

/-! ## A load after a store -/

variable {u : State} {len : Nat} {w : Nat → Prop} {addr : Nat → Int} {e : Nat → Pat len}

theorem StoreResult.active (h : StoreResult s u len w addr e) (hn : Active s t n) : Active u t n :=
  ⟨(congrArg State.vl h.rest).trans hn.1, hn.2⟩

theorem StoreResult.xval (h : StoreResult s u len w addr e) (r : XNum) : u.xval r = s.xval r := by
  rw [h.rest]; rfl

/-- R55, R60: a stored element that no later element overlaps can be read back. -/
theorem StoreResult.spells (h : StoreResult s u len w addr e) {i : Nat} (hi : w i) (hs : Storable s len (addr i))
    (later : ∀ j, i < j → w j → ∀ a, InRange (addr i) len a → ¬ InRange (addr j) len a) :
    Spells u len (addr i) (e i) := by
  intro k hk
  have hin : InRange (addr i) len (addr i + k) := ⟨by omega, by omega⟩
  obtain ⟨hlo, hhi, -⟩ := hs _ hin
  exact ⟨(congrArg State.memLo h.rest).trans_le hlo, hhi.trans_eq (congrArg State.memHi h.rest).symm,
    h.written i k hk hi fun j hj hwj => later j hj hwj _ hin⟩

/-- R212: the elements of a unit-stride store do not overlap. -/
theorem unitStride_disjoint (b : Int) {len i j : Nat} (hij : i < j) {a : Int} (ha : InRange (b + i * len) len a) :
    ¬ InRange (b + j * len) len a := by
  obtain ⟨-, hhi⟩ := ha
  have hnext : ((i + 1 : Nat) : Int) * len ≤ j * len := by exact_mod_cast Nat.mul_le_mul_right len hij
  rw [Nat.cast_succ, add_one_mul] at hnext
  exact fun ⟨hlo, _⟩ => by omega

/-- Settles O23: the store leaves VL and the base, and no element overlaps another. -/
theorem storeThenLoadRestores : Obligations.StoreThenLoadRestores := by
  intro s vs vd r n b e hn hb he hs
  obtain ⟨store, -⟩ := unitStrideAndSegmentStores
  obtain ⟨load, -⟩ := unitStrideAndSegmentLoads
  obtain ⟨u, hstore, stored⟩ := store s vs r n b e hn hb (Nat.mod_one n) he hs
  have spelled (i : Nat) (hi : i < n) : Spells u 16 (b + i * 16) (e i) :=
    stored.spells hi (hs i hi) fun _ hij _ _ => unitStride_disjoint b hij
  obtain ⟨v, hload, loaded, -⟩ :=
    load u vd r n b e (stored.active hn) ((stored.xval r).trans hb) (Nat.mod_one n) spelled
  exact ⟨u, v, hstore, hload, loaded⟩

end Sys2Proof.Machine
end

section
/-! Predicated addition, load and store (46_masked.md): an instruction reads the mask bits below VL, then touches the
elements whose bit is 1 alone. A masked store is a store of an ascending list of element numbers, those with bit 1. -/

namespace Sys2Proof.Machine

variable {s : State} {n : Nat} {m : Nat → Bool} {k : MNum}

/-! ## Reading the mask -/

theorem maskBits_holds (hm : HoldsBits s k n m) : maskBits k n s = .ok ((List.range n).map m) :=
  maskBits_ok.mpr ⟨m, readMask_holds.mpr hm, rfl⟩

/-- R231: the mask bits go to what follows. -/
theorem commit_maskBits (hm : HoldsBits s k n m) (f : List Bool → Except Fault State) :
    commit (maskBits k n s >>= f) = commit (f ((List.range n).map m)) :=
  commit_bind_ok (maskBits_holds hm) f

/-! ## Writing the active elements of a register -/

section
variable {t : EType}

theorem belowMasked_active {α : Type} {i : Nat} (f : Nat → α) (h : i < n ∧ m i = true) :
    belowMasked n m f i = some (f i) :=
  if_pos h

theorem belowMasked_inactive {α : Type} {i : Nat} (f : Nat → α) (h : ¬ (i < n ∧ m i = true)) :
    belowMasked n m f i = none :=
  if_neg h

/-- R231: only the elements with bit 1 need be readable. -/
theorem commit_writeMasked {elem : Nat → Except Fault (Pat (ew t))} {e : Nat → Pat (ew t)} (vd : VNum)
    (he : ∀ i, i < n → m i = true → elem i = .ok (e i)) :
    commit (writeMasked t vd n ((List.range n).map m) s elem) = .next (s.putElems vd t (belowMasked n m e)).advance :=
  commit_next.mpr ⟨_, writeMasked_ok.mpr ⟨e, he, rfl⟩, rfl⟩

theorem rawResult_belowMasked (s : State) (vd : VNum) (m : Nat → Bool) (e : Nat → Pat (ew t)) (hn : n ≤ epr t) :
    RawResult s (s.putElems vd t (belowMasked n m e)).advance t vd (fun i => i < n ∧ m i = true) e :=
  rawResult_putElems _ _ _ _ _ _ (fun _ hi => ⟨hi.1.trans_le hn, belowMasked_active e hi⟩)
    fun _ => belowMasked_inactive e

theorem intResult_belowMasked (s : State) (vd : VNum) (m : Nat → Bool) (g : Nat → Int) (hn : n ≤ epr t) :
    IntResult s (s.putElems vd t (belowMasked n m fun i => strOf (ew t) (g i))).advance t vd
      (fun i => i < n ∧ m i = true) g :=
  intResult_putElems _ _ _ _ _ _ (fun _ hi => ⟨hi.1.trans_le hn, belowMasked_active _ hi⟩)
    fun _ => belowMasked_inactive _

end

/-- R232: the sources of an active element are read in this order, those of an inactive one not at all. -/
theorem exec_vaddP16M {vs1 vs2 : VNum} {a b : Nat → Int} (vd : VNum) (hn : Active s .p16 n) (hm : HoldsBits s k n m)
    (hab : ∀ i, i < n → m i = true → s.ve vs1 .p16 i = .ok (a i) ∧ s.ve vs2 .p16 i = .ok (b i)) :
    exec (.vaddP16M vd vs1 vs2 k) s =
      .next (s.putElems vd .p16 (belowMasked n m fun i => strOf (ew .p16) (a i + b i))).advance := by
  have hread : ∀ i, i < n → m i = true →
      (s.ve vs1 .p16 i >>= fun x => s.ve vs2 .p16 i >>= fun y => pure (strOf (ew .p16) (x + y))) =
        .ok (strOf (ew .p16) (a i + b i)) := by
    intro i hi hmi
    obtain ⟨ha, hb⟩ := hab i hi hmi
    rw [ha, hb]; rfl
  exact ((commit_bind_ok (activeLen_active.mpr hn) _).trans (commit_maskBits hm _)).trans (commit_writeMasked vd hread)

/-- Settles O25: the sums are written to the elements with bit 1. -/
theorem maskedAddition : Obligations.MaskedAddition := by
  intro s vd vs1 vs2 vm n m a b hn hm hab
  exact ⟨_, exec_vaddP16M vd hn hm hab, intResult_belowMasked s vd m _ hn.2⟩

theorem exec_vldP16M {rs : XNum} {b : Int} {e : Nat → Pat 16} (vd : VNum) (hn : Active s .p16 n)
    (hb : s.xval rs = .ok b) (hm : HoldsBits s k n m)
    (he : ∀ i : Nat, i < n → m i = true → Spells s 16 (b + i * 16) (e i)) :
    exec (.vldP16M vd rs k) s = .next (s.putElems vd .p16 (belowMasked n m e)).advance :=
  ((commit_baseAddr hn hb _).trans (commit_maskBits hm _)).trans
    (commit_writeMasked vd fun i hi hmi => memReadRaw_spells.mpr (he i hi hmi))

/-- Settles O26: memory is read for the elements with bit 1. -/
theorem maskedLoad : Obligations.MaskedLoad := by
  intro s vd rs vm n b m e hn hb hm he
  exact ⟨_, exec_vldP16M vd hn hb hm he, rawResult_belowMasked (t := .p16) s vd m e hn.2⟩

/-! ## Storing an ascending list of elements -/

section
variable {len : Nat} {is : List Nat}

/-- The addresses and strings of the elements that a store writes. -/
def storeList (addr : Nat → Int) (e : Nat → Pat len) (is : List Nat) : List (Int × Pat len) :=
  is.map fun i => (addr i, e i)

theorem forall_mem_storeList {addr : Nat → Int} {e : Nat → Pat len} {p : Int × Pat len → Prop} :
    (∀ w ∈ storeList addr e is, p w) ↔ ∀ i ∈ is, p (addr i, e i) :=
  List.forall_mem_map

/-- R60: of elements stored in ascending order, the last whose range covers an address is what a read finds. -/
theorem memLookup_storeList_last (mem : Memory) (addr : Nat → Int) (e : Nat → Pat len) (ascending : is.Pairwise (· < ·))
    {i j : Nat} (hi : i ∈ is) (hj : j < len)
    (last : ∀ i', i < i' → i' ∈ is → ¬ InRange (addr i') len (addr i + j)) :
    memLookup (storedMem mem (storeList addr e is)) (addr i + j) = some (e i)[j] := by
  obtain ⟨before, after, rfl⟩ := List.append_of_mem hi
  have later : ∀ i' ∈ after, i < i' := (List.pairwise_cons.mp (List.pairwise_append.mp ascending).2.1).1
  rw [storeList, List.map_append, List.map_cons]
  exact memLookup_storedMem_last mem _ _ (addr i, e i) j hj <| forall_mem_storeList.mpr fun i' hi' =>
    last i' (later i' hi') (List.mem_append_right _ (List.mem_cons_of_mem _ hi'))

theorem storeResult_storeList (s : State) (addr : Nat → Int) (e : Nat → Pat len) (ascending : is.Pairwise (· < ·)) :
    StoreResult s (State.advance { s with mem := storedMem s.mem (storeList addr e is) }) len (· ∈ is) addr e where
  written _ _ hj hi last := memLookup_storeList_last s.mem addr e ascending hi hj last
  memory a outside := memLookup_storedMem_outside s.mem _ a (forall_mem_storeList.mpr outside)
  rest := rfl

/-- R210: elements in ascending order whose ranges may all be stored to are stored. -/
theorem commit_storeList {addr : Nat → Int} (e : Nat → Pat len) (ascending : is.Pairwise (· < ·))
    (storable : ∀ i ∈ is, Storable s len (addr i)) :
    ∃ u, commit (s.storeElems (storeList addr e is)) = .next u ∧ StoreResult s u len (· ∈ is) addr e :=
  ⟨_, commit_next.mpr ⟨_, storeElems_ok.mpr
      ⟨forall_mem_storeList.mpr fun i hi => storeFault_storable.mpr (storable i hi), rfl⟩, rfl⟩,
    storeResult_storeList s addr e ascending⟩

end

/-! ## The masked store -/

/-- R231: the active elements in ascending order. -/
def activeElems (n : Nat) (m : Nat → Bool) : List Nat := (List.range n).filter m

theorem mem_activeElems {i : Nat} : i ∈ activeElems n m ↔ i < n ∧ m i = true := by
  simp [activeElems]

theorem activeElems_ascending (n : Nat) (m : Nat → Bool) : (activeElems n m).Pairwise (· < ·) :=
  List.pairwise_lt_range.filter m

/-- R231: what `collectMasked` answers, without the gaps of the inactive elements. -/
theorem filterMap_masked {α : Type} (n : Nat) (m : Nat → Bool) (f : Nat → α) :
    ((List.range n).map fun i => if m i then some (f i) else none).filterMap id = (activeElems n m).map f := by
  rw [List.filterMap_map, activeElems, ← List.filterMap_eq_map, List.filterMap_filter]
  rfl

theorem exec_vstP16M {vs : VNum} {rd : XNum} {b : Int} {e : Nat → Pat 16} (hn : Active s .p16 n)
    (hb : s.xval rd = .ok b) (hm : HoldsBits s k n m) (he : ∀ i, i < n → m i = true → s.vraw vs .p16 i = .ok (e i)) :
    exec (.vstP16M vs rd k) s =
      commit (s.storeElems (storeList (fun i => b + i * 16) e (activeElems n m))) := by
  have : Inhabited (Pat 16) := ⟨Vector.replicate _ .zero⟩
  have hread : collectMasked n ((List.range n).map m)
      (fun i => s.vraw vs .p16 i >>= fun p => pure (b + (i : Int) * 16, p)) =
        .ok ((List.range n).map fun i => if m i then some (b + (i : Int) * 16, e i) else none) :=
    collectMasked_ok.mpr ⟨_, fun i hi hmi => by rw [he i hi hmi]; rfl, rfl⟩
  rw [storeList, ← filterMap_masked]
  exact ((commit_baseAddr hn hb _).trans (commit_maskBits hm _)).trans (commit_bind_ok hread _)

/-- Settles O27: the store is that of the ascending list of the elements with bit 1. -/
theorem maskedStore : Obligations.MaskedStore := by
  intro s vs rd vm n b m e hn hb hm hes
  have storable : ∀ i ∈ activeElems n m, Storable s 16 (b + i * 16) := by
    intro i hi
    obtain ⟨hlt, hmi⟩ := mem_activeElems.mp hi
    exact (hes i hlt hmi).2
  rw [exec_vstP16M hn hb hm fun i hi hmi => (hes i hi hmi).1]
  simpa only [mem_activeElems] using commit_storeList e (activeElems_ascending n m) storable

end Sys2Proof.Machine
end

section
/-! Mask logic and counts (46_masked.md, R242): bits 0 to VL - 1 alone are read, and VL may be any length that the bits
below it allow; a count or an index of mask bits needs no wrapping in a scalar register. -/

namespace Sys2Proof.Machine

/-! ## Logic -/

theorem maskBinaryRule_of_maskBinary {mk : MNum → MNum → MNum → Instr} {g : Bool → Bool → Bool}
    (h : ∀ md ma mb s, exec (mk md ma mb) s = commit (maskBinary g md ma mb s)) : MaskBinaryRule mk g := by
  intro s md ma mb n p q hvl hp hq
  have hrun : maskBinary g md ma mb s = .ok (s.putMask md (below n fun i => g (p i) (q i))) :=
    maskBinary_ok.mpr ⟨n, p, q, hvl, readMask_holds.mpr hp, readMask_holds.mpr hq, rfl⟩
  rw [h, hrun]
  exact ⟨_, commit_ok _, maskResult_below s md n _ (holdsBits_le hp)⟩

/-- R240: VMNOT writes the bits below VL alone. -/
theorem exec_vmnot {s : State} {ma : MNum} {n : Nat} {p : Nat → Bool} (md : MNum) (hvl : s.vl = some n)
    (hp : HoldsBits s ma n p) : exec (.vmnot md ma) s = .next (s.putMask md (below n fun i => !p i)).advance :=
  commit_next.mpr ⟨_, maskUnary_ok.mpr ⟨n, p, hvl, readMask_holds.mpr hp, rfl⟩, rfl⟩

/-- Settles O28: three spellings are operations on two masks, VMNOT is one on one mask. -/
theorem maskLogic : Obligations.MaskLogic := by
  refine ⟨?and, ?or, ?xor, fun s md _ n _ hvl hp => ?not⟩
  case not => exact ⟨_, exec_vmnot md hvl hp, maskResult_below s md n _ (holdsBits_le hp)⟩
  all_goals exact maskBinaryRule_of_maskBinary fun _ _ _ _ => rfl

/-! ## Counts -/

theorem commit_maskReduce {s : State} {ma : MNum} {n : Nat} {b : Nat → Bool} (g : List Bool → Int) (rd : XNum)
    (hvl : s.vl = some n) (hb : HoldsBits s ma n b) :
    commit (maskReduce g rd ma s) = .next (s.putX rd (g ((List.range n).map b))).advance :=
  commit_next.mpr ⟨_, maskReduce_ok.mpr ⟨n, b, hvl, readMask_holds.mpr hb, rfl⟩, rfl⟩

theorem popCount_map_range (n : Nat) (b : Nat → Bool) :
    popCount ((List.range n).map b) = ((List.range n).filter b).length := by
  have hbits : (· == true) ∘ b = b := funext fun i => beq_true (b i)
  rw [popCount, List.count, List.countP_map, hbits, List.countP_eq_length_filter]

theorem firstSet_eq_index {n i : Nat} {b : Nat → Bool} (hi : i < n) (hbi : b i = true)
    (least : ∀ j, j < i → b j = false) : firstSet ((List.range n).map b) = i := by
  have hfind : ((List.range n).map b).findIdx? id = some i :=
    List.findIdx?_eq_some_iff_getElem.mpr ⟨by simpa using hi, by simpa using hbi, fun j hj => by simpa using least j hj⟩
  rw [firstSet, hfind]

theorem firstSet_eq_neg_one {n : Nat} {b : Nat → Bool} (unset : ∀ i, i < n → b i = false) :
    firstSet ((List.range n).map b) = -1 := by
  have hfind : ((List.range n).map b).findIdx? id = none :=
    List.findIdx?_eq_none_iff.mpr (by simpa using unset)
  rw [firstSet, hfind]

/-- R35, R38: a number of mask bits fits a scalar register. -/
theorem xval_putX_le_maskLen (s : State) (rd : XNum) {z : Int} (lo : -1 ≤ z) (hi : z ≤ 18) :
    (s.putX rd z).advance.xval rd = .ok z := by
  have hhalf : (18 : Int) ≤ half 16 := by decide
  exact (scalarResult_exact (scalarResult_putX s rd z) (abs_le.mpr ⟨by omega, by omega⟩)).1

/-- Settles O29: both are one write of Rd, with the number of the bits that are 1 and with the index of the first. -/
theorem maskCounts : Obligations.MaskCounts := by
  intro s rd ma n b hvl hb
  have hn : n ≤ 18 := holdsBits_le hb
  refine ⟨⟨_, commit_maskReduce popCount rd hvl hb, ?count, onlyScalar_putX s rd _⟩,
    _, commit_maskReduce firstSet rd hvl hb, onlyScalar_putX s rd _, fun i hi hbi least => ?index, fun unset => ?unset⟩
  case count =>
    have hlen : ((List.range n).filter b).length ≤ n := by simpa using List.length_filter_le b (List.range n)
    rw [popCount_map_range]
    exact xval_putX_le_maskLen s rd (by omega) (by omega)
  case index =>
    rw [firstSet_eq_index hi hbi least]
    exact xval_putX_le_maskLen s rd (by omega) (by omega)
  case unset =>
    rw [firstSet_eq_neg_one unset]
    exact xval_putX_le_maskLen s rd (by decide) (by decide)

end Sys2Proof.Machine
end

section
/-! The permutation instructions (47_permute.md): each completes with one write of elements, of Vd or of two
registers, or of one scalar register; an index outside the active elements faults before what it would select is
read. -/

namespace Sys2Proof.Machine

variable {s : State} {n : Nat}

/-! ## One write of the active elements -/

/-- R28: an instruction that, VL read, is a write of the active elements of Vd. -/
theorem commit_writeActive {t : EType} {elem : Nat → Nat → Except Fault (Pat (ew t))} {g : Nat → Pat (ew t)} (vd : VNum)
    (hn : Active s t n) (h : ∀ i, i < n → elem n i = .ok (g i)) :
    commit (activeLen t s >>= fun n => writeActive t vd n s (elem n)) =
      .next (s.putElems vd t (below n g)).advance :=
  (commit_bind_ok (activeLen_active.mpr hn) _).trans (commit_next.mpr ⟨_, writeActive_ok.mpr ⟨g, h, rfl⟩, rfl⟩)

/-- Entries taken out of a list for the elements below `n`. -/
theorem below_of_getElem? {α : Type} {l : List α} {sel : Nat → Nat} {g : Nat → α}
    (h : ∀ i, i < n → l[sel i]? = some (g i)) : (fun i => if i < n then l[sel i]? else none) = below n g :=
  funext fun i => ite_congr rfl (h i) fun _ => rfl

/-! ## An index supplied by the program -/

/-- R250: an index outside 0 to VL - 1 names itself and VL. -/
theorem checkIndex_outside {j : Int} (h : j < 0 ∨ (n : Int) ≤ j) : checkIndex j n = .error (.indexRange j n) :=
  checkIndex_error.mpr ⟨h, rfl⟩

theorem checkIndex_inside {k : Nat} (h : k < n) : checkIndex k n = .ok k := checkIndex_ok.mpr ⟨rfl, h⟩

/-- R251: what VPERM computes for element `i`. -/
def permElem (vs vi : VNum) (s : State) (n i : Nat) : Except Fault (Pat (ew .p16)) := do
  let j ← s.ve vi .p16 i
  let k ← checkIndex j n
  s.vraw vs .p16 k

theorem exec_vpermP16_eq (vd vs vi : VNum) (s : State) :
    exec (.vpermP16 vd vs vi) s = commit (activeLen .p16 s >>= fun n => writeActive .p16 vd n s (permElem vs vi s n)) :=
  rfl

theorem permElem_inside {vs vi : VNum} {i j : Nat} (hj : s.ve vi .p16 i = .ok (j : Int)) (hlt : j < n) :
    permElem vs vi s n i = s.vraw vs .p16 j := by
  rw [permElem, hj, ok_bind, checkIndex_inside hlt, ok_bind]

theorem permElem_outside {vs vi : VNum} {i : Nat} {j : Int} (hj : s.ve vi .p16 i = .ok j)
    (h : j < 0 ∨ (n : Int) ≤ j) : permElem vs vi s n i = .error (.indexRange j n) := by
  rw [permElem, hj, ok_bind, checkIndex_outside h, error_bind]

/-- Settles O30: each active element is the one that its index selects. -/
theorem permutationByIndex : Obligations.PermutationByIndex := by
  intro s vd vs vi n j e hn hj he
  have gathered (i : Nat) (hi : i < n) : permElem vs vi s n i = .ok (e i) := by
    obtain ⟨hlt, helem⟩ := he i hi
    rw [permElem_inside (hj i hi) hlt, helem]
  rw [exec_vpermP16_eq]
  exact ⟨_, commit_writeActive vd hn gathered, rawResult_below s .p16 vd n e hn.2⟩

/-- Settles O38: VEXTRACT and VINSERT check their index right after VL; VPERM raises the fault of the lowest element
that raises one. -/
theorem indexRangeFaults : Obligations.IndexRangeFaults := by
  intro s vd vs vi rd rs idx n i j e hn hout
  refine ⟨?extract, ?insert, fun hi hidx before => ?perm⟩
  case extract | insert =>
    refine (commit_bind_ok (activeLen_active.mpr hn) _).trans ?_
    rw [checkIndex_outside hout, error_bind, commit_error]
  case perm =>
    have selected (k : Nat) (hk : k < i) : ∃ a, permElem vs vi s n k = .ok a := by
      obtain ⟨hjk, hlt, helem⟩ := before k hk
      exact ⟨e k, by rw [permElem_inside hjk hlt, helem]⟩
    rw [exec_vpermP16_eq, commit_bind_ok (activeLen_active.mpr hn),
      writeActive_fault hi selected (permElem_outside hidx hout), commit_error]

/-! ## Reversal and rotation -/

theorem exec_vrevP16 {vs : VNum} {e : Nat → Pat 16} (vd : VNum) (hn : Active s .p16 n) (he : HoldsRaw s .p16 vs n e) :
    exec (.vrevP16 vd vs) s = .next (s.putElems vd .p16 (below n fun i => e (n - 1 - i))).advance :=
  commit_writeActive (elem := fun n i => s.vraw vs .p16 (n - 1 - i)) vd hn fun i hi => he (n - 1 - i) (by omega)

/-- R253: where the element at index `i` moves to. -/
def rotated (n : Nat) (imm : Int) (i : Nat) : Nat := (((i : Int) + imm) % n).toNat

theorem rotated_lt {i : Nat} (imm : Int) (hi : i < n) : rotated n imm i < n := by
  have hpos : (0 : Int) < n := by omega
  have hlt := Int.emod_lt_of_pos ((i : Int) + imm) hpos
  unfold rotated
  omega

theorem cast_rotated {i : Nat} (imm : Int) (hi : i < n) : (rotated n imm i : Int) = ((i : Int) + imm) % n :=
  Int.toNat_of_nonneg (Int.emod_nonneg _ (by omega))

/-- R253: rotating back by `imm` undoes rotating by it. -/
theorem rotated_neg_rotated {i : Nat} (imm : Int) (hi : i < n) : rotated n (-imm) (rotated n imm i) = i := by
  have hback : ((i : Int) + imm + -imm) % n = i := by
    rw [Int.add_neg_cancel_right, Int.emod_eq_of_lt (by omega) (by omega)]
  rw [rotated, cast_rotated imm hi, Int.emod_add_emod, hback, Int.toNat_natCast]

theorem exec_vrotP16 {vs : VNum} {e : Nat → Pat 16} (vd : VNum) (imm : Int) (hn : Active s .p16 n)
    (he : HoldsRaw s .p16 vs n e) :
    exec (.vrotP16 vd vs imm) s =
      .next (s.putElems vd .p16 (below n fun k => e (rotated n (-imm) k))).advance := by
  have entry (k : Nat) (hk : k < n) : ((List.range n).map e)[rotated n (-imm) k]? = some (e (rotated n (-imm) k)) := by
    simp [rotated_lt (-imm) hk]
  show execVrotP16 vd vs imm s = _
  rw [execVrotP16, activeLen_active.mpr hn, ok_bind, collect_eq he, ok_bind, ← below_of_getElem? entry]
  rfl

/-- Settles O31: the element that VROT moves to an index is the one found by rotating the index back. -/
theorem reverseAndRotate : Obligations.ReverseAndRotate := by
  intro s vd vs imm n e hn he
  refine ⟨⟨_, exec_vrevP16 vd hn he, rawResult_below s .p16 vd n _ hn.2⟩, _, exec_vrotP16 vd imm hn he, ?_⟩
  obtain ⟨written, only⟩ := rawResult_below s .p16 vd n (fun k => e (rotated n (-imm) k)) hn.2
  exact ⟨fun i hi => (written _ (rotated_lt imm hi)).trans
    (congrArg (fun j => Except.ok (e j)) (rotated_neg_rotated imm hi)), only⟩

/-! ## Interleaving and separating -/

/-- A write to one register leaves the strings of the others. -/
theorem vraw_putElems_other (s : State) {r m : VNum} (t : EType) (val : Nat → Option (Pat (ew t))) (i : Nat)
    (h : m ≠ r) : (s.putElems r t val).vraw m t i = s.vraw m t i := by
  have hpent : (s.putElems r t val).vpent m = s.vpent m :=
    funext fun p => vpent_putElems_kept s r m t val p (.inl h)
  rw [State.vraw, hpent]; rfl

/-- R254: entry `j` of the interleaved sequence. -/
def zipEntry (a b : Nat → Pat 16) (j : Nat) : Pat 16 := if j % 2 = 0 then a (j / 2) else b (j / 2)

/-- R255: entry `j` of the first `n` of `a` followed by `b`. -/
def catEntry (n : Nat) (a b : Nat → Pat 16) (j : Nat) : Pat 16 := if j < n then a j else b (j - n)

variable {a b : Nat → Pat 16}

theorem zipEntry_even (a b : Nat → Pat 16) (k : Nat) : zipEntry a b (2 * k) = a k := by
  have hdiv : 2 * k / 2 = k := by omega
  rw [zipEntry, if_pos (by omega), hdiv]

theorem zipEntry_odd (a b : Nat → Pat 16) (k : Nat) : zipEntry a b (2 * k + 1) = b k := by
  have hdiv : (2 * k + 1) / 2 = k := by omega
  rw [zipEntry, if_neg (by omega), hdiv]

theorem interleave_map_range (a b : Nat → Pat 16) {j : Nat} (hj : j < 2 * n) :
    (interleave ((List.range n).map fun k => (a k, b k)))[j]? = some (zipEntry a b j) := by
  obtain ⟨heven, hodd⟩ := interleave_getElem? ((List.range n).map fun k => (a k, b k)) (j / 2)
  have hk : j / 2 < n := by omega
  rcases Nat.mod_two_eq_zero_or_one j with h | h
  · have hj2 : j = 2 * (j / 2) := by omega
    rw [hj2, heven, zipEntry_even]
    simp [hk]
  · have hj2 : j = 2 * (j / 2) + 1 := by omega
    rw [hj2, hodd, zipEntry_odd]
    simp [hk]

theorem catenate_map_range (a b : Nat → Pat 16) {j : Nat} (hj : j < 2 * n) :
    (catenate ((List.range n).map fun k => (a k, b k)))[j]? = some (catEntry n a b j) := by
  rw [catenate_getElem?, catEntry, List.length_map, List.length_range]
  split
  · next h => simp [h]
  · next h => simp [show j - n < n by omega]

/-- A sequence of `2 * n` entries cut in two and joined again is the sequence. -/
theorem catEntry_split (n : Nat) (c : Nat → Pat 16) : catEntry n c (fun i => c (n + i)) = c := by
  funext j
  by_cases h : j < n
  · exact if_pos h
  · exact (if_neg h).trans (congrArg c (Nat.add_sub_cancel' (Nat.le_of_not_lt h)))

/-- R254, R255: an instruction that deals the entries `c` of a sequence of both sources out to two registers. -/
theorem commit_pairPermute {cat : List (Pat 16 × Pat 16) → List (Pat 16)} {sel1 sel2 : Nat → Nat → Nat}
    {vd1 vd2 vs1 vs2 : VNum} {c : Nat → Pat 16} (hne : vd1 ≠ vd2) (hn : Active s .p16 n) (ha : HoldsRaw s .p16 vs1 n a)
    (hb : HoldsRaw s .p16 vs2 n b)
    (hc : ∀ {j}, j < 2 * n → (cat ((List.range n).map fun k => (a k, b k)))[j]? = some (c j))
    (h1 : ∀ j, j < n → sel1 n j < 2 * n) (h2 : ∀ j, j < n → sel2 n j < 2 * n) :
    ∃ u, commit (pairPermute cat sel1 sel2 vd1 vd2 vs1 vs2 s) = .next u ∧
      (∀ j, j < n → u.vraw vd1 .p16 j = .ok (c (sel1 n j))) ∧
      (∀ j, j < n → u.vraw vd2 .p16 j = .ok (c (sel2 n j))) ∧
      OnlyElements s u .p16 (fun m => m = vd1 ∨ m = vd2) (· < n) := by
  refine ⟨_, commit_next.mpr ⟨_, pairPermute_ok.mpr ⟨n, a, b, hn.1, hn.2, ha, hb, rfl⟩, rfl⟩, ?_⟩
  rw [below_of_getElem? fun j hj => hc (h1 j hj), below_of_getElem? fun j hj => hc (h2 j hj)]
  refine ⟨fun j hj => ?first, fun j hj => ?second,
    onlyElements_putElems_pair s .p16 vd1 vd2 _ _ _ (fun _ => below_outside _) fun _ => below_outside _⟩
  case first =>
    rw [State.advance_vraw, vraw_putElems_other _ _ _ _ hne]
    exact vraw_putElems_written _ _ .p16 _ _ _ (hj.trans_le hn.2) (below_lt _ hj)
  case second =>
    rw [State.advance_vraw]
    exact vraw_putElems_written _ _ .p16 _ _ _ (hj.trans_le hn.2) (below_lt _ hj)

/-- R254 in the terms of `zipEntry`. -/
theorem exec_vzipP16 {vd1 vd2 vs1 vs2 : VNum} (hne : vd1 ≠ vd2) (hn : Active s .p16 n) (ha : HoldsRaw s .p16 vs1 n a)
    (hb : HoldsRaw s .p16 vs2 n b) :
    ∃ u, exec (.vzipP16 vd1 vd2 vs1 vs2) s = .next u ∧ HoldsRaw u .p16 vd1 n (zipEntry a b) ∧
      HoldsRaw u .p16 vd2 n (fun j => zipEntry a b (n + j)) ∧
      OnlyElements s u .p16 (fun m => m = vd1 ∨ m = vd2) (· < n) :=
  commit_pairPermute hne hn ha hb (interleave_map_range a b) (fun _ _ => by omega) fun _ _ => by omega

/-- R255 in the terms of `catEntry`. -/
theorem exec_vunzipP16 {vd1 vd2 vs1 vs2 : VNum} (hne : vd1 ≠ vd2) (hn : Active s .p16 n)
    (ha : HoldsRaw s .p16 vs1 n a) (hb : HoldsRaw s .p16 vs2 n b) :
    ∃ u, exec (.vunzipP16 vd1 vd2 vs1 vs2) s = .next u ∧ HoldsRaw u .p16 vd1 n (fun k => catEntry n a b (2 * k)) ∧
      HoldsRaw u .p16 vd2 n (fun k => catEntry n a b (2 * k + 1)) ∧
      OnlyElements s u .p16 (fun m => m = vd1 ∨ m = vd2) (· < n) :=
  commit_pairPermute hne hn ha hb (catenate_map_range a b) (fun _ _ => by omega) fun _ _ => by omega

/-- Settles O32: the two instructions differ in the sequence they form and in how they deal it out. -/
theorem zipAndUnzip : Obligations.ZipAndUnzip := fun _ _ _ _ _ _ _ _ hne hn ha hb =>
  ⟨exec_vzipP16 hne hn ha hb, exec_vunzipP16 hne hn ha hb⟩

/-- Settles O33: what VUNZIP joins again is the interleaved sequence, whose even entries are one source and whose odd
entries are the other. -/
theorem unzipUndoesZip : Obligations.UnzipUndoesZip := by
  intro s za zb x y p q n a b hz hpq hn ha hb
  obtain ⟨t, run1, low, high, only⟩ := exec_vzipP16 hz hn ha hb
  obtain ⟨u, run2, even, odd, -⟩ := exec_vunzipP16 hpq (only.active hn) low high
  rw [catEntry_split] at even odd
  exact ⟨t, u, run1, run2, fun k hk => (even k hk).trans (congrArg Except.ok (zipEntry_even a b k)),
    fun k hk => (odd k hk).trans (congrArg Except.ok (zipEntry_odd a b k))⟩

/-! ## One element or one value -/

theorem exec_vbroadcastP16 {rs : XNum} {c : Int} (vd : VNum) (hn : Active s .p16 n) (hc : s.xval rs = .ok c) :
    exec (.vbroadcastP16 vd rs) s = .next (s.putElems vd .p16 (below n fun _ => strOf (ew .p16) c)).advance :=
  (commit_bind_ok (activeLen_active.mpr hn) _).trans <| (commit_bind_ok hc _).trans <|
    commit_next.mpr ⟨_, writeActive_ok.mpr ⟨_, fun _ _ => rfl, rfl⟩, rfl⟩

theorem exec_vextractP16 {vs : VNum} {k : Nat} {a : Int} (rd : XNum) (hn : Active s .p16 n) (hk : k < n)
    (ha : s.ve vs .p16 k = .ok a) : exec (.vextractP16 rd vs k) s = .next (s.putX rd a).advance :=
  (commit_bind_ok (activeLen_active.mpr hn) _).trans <| (commit_bind_ok (checkIndex_inside hk) _).trans <|
    commit_bind_ok ha _

theorem exec_vinsertP16 {rs : XNum} {k : Nat} {c : Int} (vd : VNum) (hn : Active s .p16 n) (hk : k < n)
    (hc : s.xval rs = .ok c) :
    exec (.vinsertP16 vd rs k) s =
      .next (s.putElems vd .p16 fun i => if i = k then some (strOf 16 c) else none).advance :=
  (commit_bind_ok (activeLen_active.mpr hn) _).trans <| (commit_bind_ok (checkIndex_inside hk) _).trans <|
    commit_bind_ok hc _

/-- R13: what an element holds fits its width. -/
theorem ve_abs_le {t : EType} {r : VNum} {i : Nat} {x : Int} (h : s.ve r t i = .ok x) : |x| ≤ half (ew t) := by
  obtain ⟨p, -, rfl⟩ := ve_ok.mp h
  exact abs_le.mpr (ival_bounds p)

/-- Settles O34: VBROADCAST writes all active elements, VINSERT one of them; an extracted element fits Rd. -/
theorem broadcastExtractInsert : Obligations.BroadcastExtractInsert := by
  intro s vd vs rd rs n k a c hn
  refine ⟨fun hc => ?broadcast, fun hk ha => ?extract, fun hk hc => ?insert⟩
  case broadcast => exact ⟨_, exec_vbroadcastP16 vd hn hc, intResult_below s .p16 vd n _ hn.2⟩
  case extract =>
    exact ⟨_, exec_vextractP16 rd hn hk ha, scalarResult_exact (scalarResult_putX s rd a) (ve_abs_le ha)⟩
  case insert =>
    have active (i : Nat) (hi : i = k) : i < epr .p16 := hi ▸ hk.trans_le hn.2
    exact ⟨_, exec_vinsertP16 vd hn hk hc,
      intResult_putElems s .p16 vd _ _ _ (fun i hi => ⟨active i hi, if_pos hi⟩) fun _ hi => if_neg hi⟩

end Sys2Proof.Machine
end

section
/-! How the machine steps (R46, R57, R272, R279): the word at pc is run, a run ends without a fault or at an illegal
pc, and a recorded fault stays. -/

namespace Sys2Proof.Machine

/-- Settles O43: the word is fetched, and the decoder accepts it. -/
theorem stepRunsDecodedInstruction : Obligations.StepRunsDecodedInstruction := by
  intro s w i running above below aligned spelled decoded
  have legal : s.pcLegal = true := (pcLegal_iff s).mpr ⟨above, below, aligned⟩
  rw [step_running running, runNext_fetched legal (fetch_ok.mpr spelled), runWord_ok decoded]

/-- Settles O45: the fault record is looked at before pc. -/
theorem runEndings : Obligations.RunEndings := by
  intro s
  refine ⟨fun running atEnd => ?finish, fun running notEnd outside => ?launch, fun _ recorded => step_recorded recorded⟩
  case finish => rw [step_running running, runNext_end atEnd]
  case launch =>
    have illegal : s.pcLegal = false := Bool.eq_false_iff.mpr (mt (pcLegal_iff s).mp outside)
    rw [step_running running, runNext_illegal notEnd illegal]

/-- R46, R272: a fault is recorded in the state before the step. -/
theorem after_of_fault {s : State} {f : Fault} (h : step s = .fault f) : s.after = s.recordFault f := by
  rw [State.after, h]

/-- Settles O46: recording a fault that is already recorded changes nothing. -/
theorem faultWritesNothing : Obligations.FaultWritesNothing := by
  intro s f _ raised
  have again : step (s.recordFault f) = .fault f := step_recorded rfl
  rw [after_of_fault raised]
  exact ⟨rfl, again, after_of_fault again⟩

end Sys2Proof.Machine
end
